-- ==== Sys2Proof/Word.lean ====
section
/-! DEFINITION. The word types of BMPLOAD. -/

namespace Sys2Proof

/-- One byte of the stream, one header capture register, one channel code (R9, R12, R70). -/
abbrev Byte := BitVec 8

/-- A two-byte header field (R13, R63). -/
abbrev Half := BitVec 16

/-- A four-byte header field, LINE, COL, IMG_W, IMG_H (R13, R19, R25). -/
abbrev Word := BitVec 32

/-- A pixel word, alpha in bits 31:24, blue 23:16, green 15:8, red 7:0 (R27). -/
abbrev Pixel := BitVec 32

end Sys2Proof
end

