-- ==== Sys2Proof/Config.lean ====
section
/-! DEFINITION. What an implementation fixes: the four parameters of R3 to R6 with their constraints, the constants of R7,
and the one family of free values, the pixel words the spec leaves unspecified. -/

namespace Sys2Proof

/-- The implementation parameters (R3 to R6). The spec says a model takes them as arguments; `State` carries one value of
this type that no operation writes (log 4), so that a statement over every state is a statement over every parameter. -/
structure Config.Params where
  /-- `SZ`, the width in bits of sizes and pixel indices (R3). -/
  sz : Nat
  /-- `CAP`, the capacity of each bank in pixels (R4). -/
  cap : Nat
  /-- `LEGACY_PAD`, padding from the 3-byte baseline at every depth (R5). -/
  legacyPad : Bool
  /-- `FINAL_PAD_OPTIONAL`, end of stream inside the last row's padding completes the load (R6). -/
  finalPadOptional : Bool
  deriving DecidableEq, Repr

/-- `MAXSZ = 2^SZ - 1` (R3). -/
def Config.Params.maxsz (p : Config.Params) : Nat := 2 ^ p.sz - 1

/-- The constraints of R3 and R4: `SZ >= 32` and `1 <= CAP <= MAXSZ`. -/
def Config.Params.wf (p : Config.Params) : Bool :=
  decide (32 ≤ p.sz) && decide (1 ≤ p.cap) && decide (p.cap ≤ p.maxsz)

/-- The spec's reference values and defaults (R3 to R6). -/
def Config.reference : Config.Params :=
  { sz := 32, cap := 65536, legacyPad := false, finalPadOptional := false }

/-- `FH_LEN` (R7). -/
def Config.fhLen : Nat := 14

/-- `IH_LEN` (R7). -/
def Config.ihLen : Nat := 40

/-- `HDR_LEN` (R7). -/
def Config.hdrLen : Nat := 54

/-- `BI_RGB`, the one legal compression code (R7, R65). -/
abbrev Config.biRgb : Word := 0

/-- FREE VALUE (R29, U11 to U13; log 6): word `a` of the `gen`-th batch of unspecified pixel words. It has no body, so no
proof can rest on what it is. -/
opaque Config.freePixel (gen a : Nat) : Pixel

end Sys2Proof
end

