-- ==== Sys2Proof/Syntax.lean ====
section
/-! DEFINITION. The syntax of BMPLOAD: the sequencer's phase names and the failure codes, which operations and their
decoding mention; the 34 operations of `spec/opcode_table.json`; and the shape of what the environment presents. -/

namespace Sys2Proof

/-- PHASE (R16). Code 7 has no name and no rule writes it, so it has no constructor (U15, log 12). -/
inductive Phase where
  | idle | fhdr | ihdr | pix | pad | done | failed
  deriving DecidableEq, Repr

/-- The failure codes of ERR (R191). Codes 10 to 15 are written by no rule and have no constructor (U15, log 12). -/
inductive ErrCode where
  | none | openFailed | io | signature | zeroDim | bpp | compression | overflow | capacity | state
  deriving DecidableEq, Repr

/-- One constructor per row of `spec/opcode_table.json`. A stream operation carries the byte `b` of the `BYTE(b)` event
that performs it (`StreamByte`, R9). -/
inductive Instr where
  /-- R90. -/
  | reset
  /-- R91, R92. -/
  | start
  /-- R93, R94. -/
  | eos
  /-- R95. -/
  | byte (b : Byte)
  /-- R99: `n` is the 6-bit register number. -/
  | rdreg (n : BitVec 6)
  /-- R176: `a` is a linear pixel index of SZ bits (`WellFormed.lean` checks the width). -/
  | rdpix (a : Nat)
  /-- R110. -/
  | fhSig (b : Byte)
  /-- R111. -/
  | fhFsize (b : Byte)
  /-- R112. -/
  | fhRsv1 (b : Byte)
  /-- R113. -/
  | fhRsv2 (b : Byte)
  /-- R114. -/
  | fhOffbits (b : Byte)
  /-- R130. -/
  | ihSize (b : Byte)
  /-- R131. -/
  | ihWidth (b : Byte)
  /-- R132. -/
  | ihHeight (b : Byte)
  /-- R133. -/
  | ihPlanes (b : Byte)
  /-- R134. -/
  | ihBpp (b : Byte)
  /-- R135. -/
  | ihCompr (b : Byte)
  /-- R136. -/
  | ihImgsize (b : Byte)
  /-- R137. -/
  | ihXppm (b : Byte)
  /-- R138. -/
  | ihYppm (b : Byte)
  /-- R139. -/
  | ihClrused (b : Byte)
  /-- R140. -/
  | ihClrimp (b : Byte)
  /-- R163. -/
  | pix24 (b : Byte)
  /-- R164. -/
  | pix32 (b : Byte)
  /-- R171. -/
  | padskip (b : Byte)
  /-- R96. -/
  | hcap (b : Byte)
  /-- R116: `b` is the byte being captured. -/
  | sigchk (b : Byte)
  /-- R141. -/
  | validate
  /-- R144. -/
  | alloc
  /-- R161. -/
  | rowchk
  /-- R165: the red, green, blue and alpha codes of the finished pixel. -/
  | pixdone (r g bl a : Byte)
  /-- R172. -/
  | rowend
  /-- R174. -/
  | finalize
  /-- R193: `raise Fail(e)`. -/
  | fail (e : ErrCode)
  deriving DecidableEq, Repr

/-- The values of the input ports sampled on one rising edge (R40). -/
structure Pins where
  rst : Bool
  start : Bool
  inValid : Bool
  inEos : Bool
  inData : Byte
  deriving DecidableEq, Repr

/-- What the environment presents next: one rising clock edge, or one host read through the combinational ports (R40 to
R43). -/
inductive Input where
  /-- A rising edge with these port values (R40 to R42). -/
  | edge (p : Pins)
  /-- The host reads `rd_data`, `rd_ok` at `rd_addr = a` (R43). -/
  | readPix (a : Nat)
  /-- The host reads `reg_rdata` at `reg_addr = n` (R43). -/
  | readReg (n : BitVec 6)
  deriving DecidableEq, Repr

/-- What the decoder looks at besides the input: PHASE, HOFF and BPP, which alone select the operation of a byte (R74),
and SZ, the width of `rd_addr` (R40). -/
structure Selector where
  phase : Phase
  hoff : BitVec 6
  bpp : Half
  sz : Nat
  deriving DecidableEq, Repr

/-- Why an input is no operation of the block. -/
inductive NoEvent where
  /-- No reset, no start and no beat on this edge (R42). -/
  | idleEdge
  /-- A beat while `in_ready = 0`: not accepted, no event (R41, R95). -/
  | beatNotReady
  /-- `start` while BUSY and no beat: ignored (R42, R92). -/
  | startWhileBusy
  /-- A pixel address that does not fit the SZ wires of `rd_addr` (R40; log 13). -/
  | addressTooWide
  deriving DecidableEq, Repr

/-- The formats of `spec/opcode_table.json` (R83). -/
inductive Format where
  | event | fileHeader | infoHeader | pixel24 | pixel32 | row | internal
  deriving DecidableEq, Repr

end Sys2Proof
end

