-- ==== Sys2Proof/WellFormed.lean ====
section
/-! DEFINITION. Which terms of `Instr` are operations of a block with given parameters. -/

namespace Sys2Proof

/-- `a` fits the SZ-bit operand of RDPIX (R40, R176). -/
def fitsSize (sz a : Nat) : Bool := decide (a < 2 ^ sz)

/-- Operand checks: RDPIX's index fits SZ bits (R176), and FAIL raises one of the codes 1 to 9 (R191: no rule raises
ERR_NONE; log 18). -/
def Instr.wf (sz : Nat) : Instr → Bool
  | .rdpix a => fitsSize sz a
  | .fail e => e != .none
  | .reset | .start | .eos | .byte _ | .rdreg _
  | .fhSig _ | .fhFsize _ | .fhRsv1 _ | .fhRsv2 _ | .fhOffbits _
  | .ihSize _ | .ihWidth _ | .ihHeight _ | .ihPlanes _ | .ihBpp _ | .ihCompr _ | .ihImgsize _
  | .ihXppm _ | .ihYppm _ | .ihClrused _ | .ihClrimp _
  | .pix24 _ | .pix32 _ | .padskip _
  | .hcap _ | .sigchk _ | .validate | .alloc | .rowchk | .pixdone _ _ _ _ | .rowend | .finalize => true

end Sys2Proof
end

