-- ==== Sys2Proof/Decode.lean ====
section
/-! DEFINITION. From the input ports to an operation, and back. The block has no instruction words (R83): an event is a
pattern of the input ports (R40 to R43), and the operation a byte performs is decided by PHASE, HOFF and BPP alone, never
by the byte's value (R74, R95). The decoder is total and names what it turns away. -/

namespace Sys2Proof

/-- BUSY as a function of PHASE (R16); it is `in_ready` (R40). -/
def Phase.busy : Phase → Bool
  | .fhdr | .ihdr | .pix | .pad => true
  | .idle | .done | .failed => false

/-- The PHASE codes (R16). -/
def Phase.code : Phase → BitVec 3
  | .idle => 0 | .fhdr => 1 | .ihdr => 2 | .pix => 3 | .pad => 4 | .done => 5 | .failed => 6

/-- The ERR codes (R191). -/
def ErrCode.code : ErrCode → BitVec 4
  | .none => 0 | .openFailed => 1 | .io => 2 | .signature => 3 | .zeroDim => 4 | .bpp => 5 | .compression => 6
  | .overflow => 7 | .capacity => 8 | .state => 9

/-- An edge with an accepted data beat (R41). -/
def Pins.beat (b : Byte) : Pins := { rst := false, start := false, inValid := true, inEos := false, inData := b }

/-- An edge with the end-of-stream marker (R41). -/
def Pins.eosBeat : Pins := { rst := false, start := false, inValid := true, inEos := true, inData := 0 }

/-- An edge that gives only `rst` (R40). -/
def Pins.resetEdge : Pins := { rst := true, start := false, inValid := false, inEos := false, inData := 0 }

/-- An edge that gives only `start` (R40). -/
def Pins.startEdge : Pins := { rst := false, start := true, inValid := false, inEos := false, inData := 0 }

/-- R42: RESET first; else START when not BUSY; else the accepted beat, if any. -/
def decodeEdge (busy : Bool) (p : Pins) : Except NoEvent Instr :=
  if p.rst then .ok .reset
  else if p.start && !busy then .ok .start
  else if p.inValid && busy then .ok (if p.inEos then .eos else .byte p.inData)
  else if p.inValid then .error .beatNotReady
  else if p.start then .error .startWhileBusy
  else .error .idleEdge

/-- The event of an input (R42, R43). -/
def decodeEvent (busy : Bool) (sz : Nat) : Input → Except NoEvent Instr
  | .edge p => decodeEdge busy p
  | .readPix a => if fitsSize sz a then .ok (.rdpix a) else .error .addressTooWide
  | .readReg n => .ok (.rdreg n)

/-- R74 in FHDR: the capture whose bytes hold stream offset `h` (R60). An offset outside the file header is reached by no
run and leaves the byte unrefined (log 15). -/
def fileHeaderOp (h : Nat) (b : Byte) : Instr :=
  if h ≤ 1 then .fhSig b
  else if h ≤ 5 then .fhFsize b
  else if h ≤ 7 then .fhRsv1 b
  else if h ≤ 9 then .fhRsv2 b
  else if h ≤ 13 then .fhOffbits b
  else .byte b

/-- R74 in IHDR: the capture whose bytes hold stream offset `h` (R61). An offset outside the info header is reached by no
run and leaves the byte unrefined (log 15). -/
def infoHeaderOp (h : Nat) (b : Byte) : Instr :=
  if h ≤ 13 then .byte b
  else if h ≤ 17 then .ihSize b
  else if h ≤ 21 then .ihWidth b
  else if h ≤ 25 then .ihHeight b
  else if h ≤ 27 then .ihPlanes b
  else if h ≤ 29 then .ihBpp b
  else if h ≤ 33 then .ihCompr b
  else if h ≤ 37 then .ihImgsize b
  else if h ≤ 41 then .ihXppm b
  else if h ≤ 45 then .ihYppm b
  else if h ≤ 49 then .ihClrused b
  else if h ≤ 53 then .ihClrimp b
  else .byte b

/-- The stream operation that `BYTE(b)` performs at a sequencer position (R74, R95). -/
def streamOp (sel : Selector) (b : Byte) : Instr :=
  match sel.phase with
  | .fhdr => fileHeaderOp sel.hoff.toNat b
  | .ihdr => infoHeaderOp sel.hoff.toNat b
  | .pix => if sel.bpp = 24 then .pix24 b else .pix32 b
  | .pad => .padskip b
  | .idle | .done | .failed => .byte b

/-- The operation an event performs: a BYTE is refined by the sequencer's position, every other event is itself. -/
def refine (sel : Selector) : Instr → Instr
  | .byte b => streamOp sel b
  | i => i

/-- The decoder: the operation the block performs on this input, or the name of why it performs none. -/
def decode (sel : Selector) (inp : Input) : Except NoEvent Instr :=
  (decodeEvent sel.phase.busy sel.sz inp).map (refine sel)

/-- The format of each operation in `spec/opcode_table.json` (R83). -/
def Instr.format : Instr → Format
  | .reset | .start | .eos | .byte _ | .rdreg _ | .rdpix _ => .event
  | .fhSig _ | .fhFsize _ | .fhRsv1 _ | .fhRsv2 _ | .fhOffbits _ => .fileHeader
  | .ihSize _ | .ihWidth _ | .ihHeight _ | .ihPlanes _ | .ihBpp _ | .ihCompr _ | .ihImgsize _
  | .ihXppm _ | .ihYppm _ | .ihClrused _ | .ihClrimp _ => .infoHeader
  | .pix24 _ => .pixel24
  | .pix32 _ => .pixel32
  | .padskip _ => .row
  | .hcap _ | .sigchk _ | .validate | .alloc | .rowchk | .pixdone _ _ _ _ | .rowend | .finalize | .fail _ => .internal

/-- The first and last stream offset of a field capture (R60, R61). -/
def Instr.span : Instr → Option (Nat × Nat)
  | .fhSig _ => some (0, 1)
  | .fhFsize _ => some (2, 5)
  | .fhRsv1 _ => some (6, 7)
  | .fhRsv2 _ => some (8, 9)
  | .fhOffbits _ => some (10, 13)
  | .ihSize _ => some (14, 17)
  | .ihWidth _ => some (18, 21)
  | .ihHeight _ => some (22, 25)
  | .ihPlanes _ => some (26, 27)
  | .ihBpp _ => some (28, 29)
  | .ihCompr _ => some (30, 33)
  | .ihImgsize _ => some (34, 37)
  | .ihXppm _ => some (38, 41)
  | .ihYppm _ => some (42, 45)
  | .ihClrused _ => some (46, 49)
  | .ihClrimp _ => some (50, 53)
  | _ => none

/-- HOFF lies in the operation's span. -/
def Instr.spans (i : Instr) (hoff : BitVec 6) : Bool :=
  match i.span with
  | some (lo, hi) => decide (lo ≤ hoff.toNat) && decide (hoff.toNat ≤ hi)
  | none => false

/-- The sequencer positions at which an operation is the one performed (R74 and the table's `accepted_in`, `when`). An
internal operation is selected nowhere: it is performed inside the step of another. BYTE stays unrefined only at header
offsets no run reaches (log 15). -/
def Instr.selectedAt (i : Instr) (sel : Selector) : Bool :=
  match i.format with
  | .event =>
    match i with
    | .reset | .rdreg _ => true
    | .start => !sel.phase.busy
    | .eos => sel.phase.busy
    | .rdpix a => fitsSize sel.sz a
    | .byte _ => (sel.phase == .fhdr && decide (14 ≤ sel.hoff.toNat))
        || (sel.phase == .ihdr && (decide (sel.hoff.toNat ≤ 13) || decide (54 ≤ sel.hoff.toNat)))
    | _ => false
  | .fileHeader => sel.phase == .fhdr && i.spans sel.hoff
  | .infoHeader => sel.phase == .ihdr && i.spans sel.hoff
  | .pixel24 => sel.phase == .pix && sel.bpp == 24
  | .pixel32 => sel.phase == .pix && sel.bpp != 24
  | .row => sel.phase == .pad
  | .internal => false

/-- The encoder: the input that presents an operation (R40 to R43). An internal operation has none (R83). -/
def encode : Instr → Option Input
  | .reset => some (.edge .resetEdge)
  | .start => some (.edge .startEdge)
  | .eos => some (.edge .eosBeat)
  | .rdreg n => some (.readReg n)
  | .rdpix a => some (.readPix a)
  | .byte b
  | .fhSig b | .fhFsize b | .fhRsv1 b | .fhRsv2 b | .fhOffbits b
  | .ihSize b | .ihWidth b | .ihHeight b | .ihPlanes b | .ihBpp b | .ihCompr b | .ihImgsize b
  | .ihXppm b | .ihYppm b | .ihClrused b | .ihClrimp b
  | .pix24 b | .pix32 b | .padskip b => some (.edge (.beat b))
  | .hcap _ | .sigchk _ | .validate | .alloc | .rowchk | .pixdone _ _ _ _ | .rowend | .finalize | .fail _ => none

/-- The bytes of a table word in stream order, bits 7:0 first. For a header field that is its little-endian value (R46,
R63, R83). For a 24- or 32-bit pixel word no rule says which byte of the word comes first: R70 writes the pattern in stream
order, blue leftmost, and R83 speaks of header fields only. That bits 7:0 are the first stream byte, blue, is the model's
choice (DESIGN CHOICE, log 20). -/
def bytesOf (k w : Nat) : List Byte :=
  (List.range k).map fun j => BitVec.ofNat 8 (w >>> (8 * j))

/-- Where the sequencer stands when it meets a word of `spec/opcode_table.json`, and the word's bytes. The table fixes
bits for four rows only: the legal values of SIG and COMPR, and the BPP selector value of the two pixel formats (R83);
a 24-bit word is a pixel of format PIXEL24. No other row's bits tell it from its neighbours (log 13). That a pixel word's
bits 7:0 are its first stream byte, blue, that a 32-bit pixel word is known by 32 in its low half, and that zero bytes stand
for the pixel of a bare selector word, are the model's choices (DESIGN CHOICE, log 20). -/
def tablePlace (nbits w : Nat) : Option (Selector × List Byte) :=
  let at_ (phase : Phase) (hoff : BitVec 6) (bpp : Half) : Selector := ⟨phase, hoff, bpp, Config.reference.sz⟩
  if nbits = 16 ∧ w = 0x4D42 then some (at_ .fhdr 0 0, bytesOf 2 w)
  else if nbits = 16 ∧ w = 24 then some (at_ .pix 53 24, bytesOf 3 0)
  else if nbits = 16 ∧ w = 32 then some (at_ .pix 53 32, bytesOf 4 0)
  else if nbits = 24 then some (at_ .pix 53 24, bytesOf 3 w)
  else if nbits = 32 ∧ w = 0 then some (at_ .ihdr 30 0, bytesOf 4 w)
  else if nbits = 32 ∧ w % 65536 = 32 then some (at_ .pix 53 32, bytesOf 4 w)
  else none

/-- The operation the decoder reads from a table word: it performs the word's first byte at the word's place. An 8-bit
word is the event BYTE, before the sequencer refines it. -/
def decodeTableWord (nbits w : Nat) : Option Instr :=
  if nbits = 8 then (decodeEvent true Config.reference.sz (.edge (.beat (BitVec.ofNat 8 w)))).toOption
  else
    match tablePlace nbits w with
    | some (sel, b :: _) => (decode sel (.edge (.beat b))).toOption
    | _ => none

end Sys2Proof
end

