-- ==== Sys2Proof/Machine/State.lean ====
section
/-! DEFINITION. The state of the block (R11) as plain data, the reasons a step can stop, and the state after reset (R29).
The fields the spec does not name (`cfg`, `port`, `inbox`, `free`, and each bank's `gen`) are the model's own. -/

namespace Sys2Proof.Machine

/-- One bank of the pixel store (R27): the words whose value the rules determine, as index and word, indices strictly
rising. A word that is not listed is unspecified (R29, U11 to U13): it is the free value `Config.freePixel gen a` (log 6). -/
structure Bank where
  cells : List (Nat × Pixel)
  gen : Nat
  deriving DecidableEq, Repr

/-- What the host's read ports showed at the last RDPIX or RDREG event (R43; the model's own, log 9). -/
structure ReadPort where
  rdOk : Bool
  rdData : Pixel
  regRdata : Nat
  deriving DecidableEq, Repr

/-- The values of the output ports (R40, R43). -/
structure OutPins where
  inReady : Bool
  busy : Bool
  done : Bool
  failed : Bool
  err : BitVec 4
  imgValid : Bool
  imgWidth : Word
  imgHeight : Word
  rdData : Pixel
  rdOk : Bool
  regRdata : Nat
  deriving DecidableEq, Repr

/-- The state of the block (R11). SZ-bit registers are naturals that the invariant keeps below `2^SZ` (log 5). -/
structure State where
  /-- The parameters (R3 to R6); no operation writes them (log 4). -/
  cfg : Config.Params
  /-- PHASE (R16). -/
  phase : Phase
  /-- HOFF (R18). -/
  hoff : BitVec 6
  /-- LINE (R19). -/
  line : Word
  /-- COL (R19). -/
  col : Word
  /-- KB (R20). -/
  kb : BitVec 2
  /-- PADCNT (R20). -/
  padcnt : BitVec 2
  /-- HDR[0..53] (R12). -/
  hdr : Vector Byte 54
  /-- PXB (R15). -/
  pxb : Byte
  /-- PXG (R15). -/
  pxg : Byte
  /-- PXR (R15). -/
  pxr : Byte
  /-- NPIX, SZ bits (R22). -/
  npix : Nat
  /-- ERR (R23). -/
  err : ErrCode
  /-- IMG_VALID (R25). -/
  imgValid : Bool
  /-- IMG_W (R25). -/
  imgW : Word
  /-- IMG_H (R25). -/
  imgH : Word
  /-- IMG_LEN, SZ bits (R25). -/
  imgLen : Nat
  /-- ACTIVE (R25): false is 0, true is 1. -/
  active : Bool
  /-- PIX[0] (R27). -/
  pix0 : Bank
  /-- PIX[1] (R27). -/
  pix1 : Bank
  /-- The last values on the read ports (log 9). -/
  port : ReadPort
  /-- What the environment presents next, oldest first (log 1). -/
  inbox : List Input
  /-- The next batch of unspecified pixel words (log 6). -/
  free : Nat
  deriving DecidableEq, Repr

/-- The model's faults. -/
inductive Fault where
  /-- Raised by PIXDONE (and so PIX24, PIX32, BYTE) and by RDPIX for a pixel index that is no word of `PIX[b][0..CAP-1]`
  (R27). No state that meets the invariant raises it. Safe (log 8). -/
  | noSuchPixel (a : Nat)
  deriving DecidableEq, Repr

/-- The model's refusals. -/
inductive Refusal where
  /-- Raised by `exec`'s arm of an instruction that has no meaning yet. Safe. -/
  | notModelled (mnemonic : String)
  /-- Raised by `step` where the parameters break R3 or R4: the spec gives that situation no meaning (U20). Safe (log 4). -/
  | parametersOutOfRange
  /-- Raised by `step` for a host read whose pixel index does not fit the SZ wires of `rd_addr` (R40). Safe (log 13). -/
  | addressTooWide
  deriving DecidableEq, Repr

/-- What a part of a step comes to: the writes so far, `raise Fail(e)` (R193), or the model's fault. -/
inductive Effect where
  | ok (s : State)
  | fail (e : ErrCode)
  | fault (r : Fault)
  deriving DecidableEq, Repr

/-- The reset state of R29 for given parameters. Both banks are unspecified: nothing listed, two batches of free values. -/
def State.resetFor (cfg : Config.Params) : State :=
  { cfg := cfg, phase := .idle, hoff := 0, line := 0, col := 0, kb := 0, padcnt := 0
    hdr := Vector.replicate 54 0, pxb := 0, pxg := 0, pxr := 0, npix := 0, err := .none
    imgValid := false, imgW := 0, imgH := 0, imgLen := 0, active := false
    pix0 := { cells := [], gen := 0 }, pix1 := { cells := [], gen := 1 }
    port := { rdOk := false, rdData := 0, regRdata := 0 }, inbox := [], free := 2 }

/-- The reset state of R29 at the spec's reference parameters (R3 to R6). -/
def State.reset : State := State.resetFor Config.reference

end Sys2Proof.Machine
end

