-- ==== Sys2Proof/Machine/Operands.lean ====
section
/-! DEFINITION. What the operations read: the capture bytes and their sixteen field views (R12 to R14), the padding length
(R170), the pixel-store address (R165), the pixel word (R27, R70) and the size product (R143). -/

namespace Sys2Proof.Machine

/-- `HDR[i]` (R12). -/
def State.hdrAt (s : State) (i : Nat) : Byte := s.hdr[i]?.getD 0

/-- `le16(i)` (R9, R63): the byte at the lower offset is the least significant. -/
def State.le16 (s : State) (i : Nat) : Half := s.hdrAt (i + 1) ++ s.hdrAt i

/-- `le32(i)` (R9, R63). -/
def State.le32 (s : State) (i : Nat) : Word := s.hdrAt (i + 3) ++ s.hdrAt (i + 2) ++ s.hdrAt (i + 1) ++ s.hdrAt i

/-! The field views of R13. -/

def State.sig (s : State) : Half := s.le16 0
def State.fsize (s : State) : Word := s.le32 2
def State.rsv1 (s : State) : Half := s.le16 6
def State.rsv2 (s : State) : Half := s.le16 8
def State.offbits (s : State) : Word := s.le32 10
def State.ihsize (s : State) : Word := s.le32 14
def State.width (s : State) : Word := s.le32 18
def State.height (s : State) : Word := s.le32 22
def State.planes (s : State) : Half := s.le16 26
def State.bpp (s : State) : Half := s.le16 28
def State.compr (s : State) : Word := s.le32 30
def State.imgsize (s : State) : Word := s.le32 34
def State.xppm (s : State) : Word := s.le32 38
def State.yppm (s : State) : Word := s.le32 42
def State.clrused (s : State) : Word := s.le32 46
def State.clrimp (s : State) : Word := s.le32 50

/-- `W`, zero-extended for size arithmetic (R14). -/
def State.w (s : State) : Nat := s.width.toNat

/-- `H`, zero-extended for size arithmetic (R14). -/
def State.h (s : State) : Nat := s.height.toNat

/-- `B = BPP / 8` (R14). -/
def State.bytesPerPixel (s : State) : Nat := s.bpp.toNat / 8

/-- The padding of a row of `w` pixels at a baseline of `bp` bytes (R170). -/
def padding (w bp : Nat) : Nat := (4 - (((w % 4) * bp) % 4)) % 4

/-- `PADLEN` (R170): the baseline is 3 under LEGACY_PAD, else `B`. -/
def State.padlen (s : State) : Nat := padding s.w (if s.cfg.legacyPad then 3 else s.bytesPerPixel)

/-- The work-bank index of the pixel at file row LINE, column COL (R165): file row `line` is memory row `H - 1 - line`.
Subtraction is on naturals, exact wherever `LINE < H` (log 14). -/
def State.pixelAddr (s : State) : Nat := (s.h - 1 - s.line.toNat) * s.w + s.col.toNat

/-- The pixel word `{a, bl, g, r}` (R27, R165). -/
def pixelWord (r g bl a : Byte) : Pixel := a ++ bl ++ g ++ r

/-- The exact value a channel code denotes, `code/255` (R166). -/
def codeValue (c : Byte) : Rat := (c.toNat : Rat) / 255

/-- The red, green, blue and alpha codes of a pixel word (R27). -/
def pixelCodes (p : Pixel) : Byte × Byte × Byte × Byte :=
  (p.extractLsb' 0 8, p.extractLsb' 8 8, p.extractLsb' 16 8, p.extractLsb' 24 8)

/-- The document's Pixel `{r, g, b, a}` that a pixel word denotes (R166). -/
def pixelValue (p : Pixel) : Rat × Rat × Rat × Rat :=
  let (r, g, b, a) := pixelCodes p
  (codeValue r, codeValue g, codeValue b, codeValue a)

/-- `mul_size(w, h)`, the overflow-checked product (R143). -/
def mulSize (maxsz w h : Nat) : Option Nat :=
  if w = 0 ∨ h = 0 then some 0
  else if maxsz / h < w then none
  else some (w * h)

/-- The bank whose ACTIVE bit is `b` (R27). -/
def State.bank (s : State) (b : Bool) : Bank := if b then s.pix1 else s.pix0

/-- The committed bank, `PIX[ACTIVE]` (R27). -/
def State.committed (s : State) : Bank := s.bank s.active

/-- The work bank, `PIX[1 - ACTIVE]` (R27). -/
def State.work (s : State) : Bank := s.bank (!s.active)

/-- The word listed at index `a` of a canonical cell list. -/
def lookup (a : Nat) : List (Nat × Pixel) → Option Pixel
  | [] => none
  | (k, p) :: rest => if k = a then some p else lookup a rest

/-- The value of a bank's word where the rules determine one. -/
def Bank.find (b : Bank) (a : Nat) : Option Pixel := lookup a b.cells

/-- The value of a bank's word: what the rules determine, else a free value (log 6). -/
def Bank.read (b : Bank) (a : Nat) : Pixel := (b.find a).getD (Config.freePixel b.gen a)

/-- What the decoder sees of the state (R74, R40). -/
def State.selector (s : State) : Selector :=
  { phase := s.phase, hoff := s.hoff, bpp := s.bpp, sz := s.cfg.sz }

end Sys2Proof.Machine
end

