-- ==== Sys2Proof/Machine/Flags.lean ====
section
/-! DEFINITION. The status views (R16, R24), the host's register table (R26), the bounds-checked pixel read (R176) and the
output ports (R40, R43): functions of the state, none of them state. -/

namespace Sys2Proof.Machine

/-- BUSY (R16, R24). -/
def State.busy (s : State) : Bool := s.phase.busy

/-- DONE (R24). -/
def State.done (s : State) : Bool := s.phase == .done

/-- FAILED (R24). -/
def State.failed (s : State) : Bool := s.phase == .failed

/-- STATUS (R26): [2:0] PHASE, [3] BUSY, [4] DONE, [5] FAILED, [6] IMG_VALID, [7] ACTIVE, [11:8] ERR. -/
def State.status (s : State) : BitVec 12 :=
  s.err.code ++ BitVec.ofBool s.active ++ BitVec.ofBool s.imgValid ++ BitVec.ofBool s.failed
    ++ BitVec.ofBool s.done ++ BitVec.ofBool s.busy ++ s.phase.code

/-- SEQ (R26): [5:0] HOFF, [7:6] KB, [9:8] PADCNT. -/
def State.seq (s : State) : BitVec 10 := s.padcnt ++ s.kb ++ s.hoff

/-- The result of `RDREG(n)` (R26, R99): narrower registers zero-extended, an unlisted number reads 0. -/
def State.readReg (s : State) (n : BitVec 6) : Nat :=
  match n.toNat with
  | 0x00 => s.status.toNat
  | 0x01 => s.imgW.toNat
  | 0x02 => s.imgH.toNat
  | 0x03 => s.imgLen
  | 0x04 => s.npix
  | 0x05 => s.line.toNat
  | 0x06 => s.col.toNat
  | 0x07 => s.seq.toNat
  | 0x10 => s.sig.toNat
  | 0x11 => s.fsize.toNat
  | 0x12 => s.rsv1.toNat
  | 0x13 => s.rsv2.toNat
  | 0x14 => s.offbits.toNat
  | 0x15 => s.ihsize.toNat
  | 0x16 => s.width.toNat
  | 0x17 => s.height.toNat
  | 0x18 => s.planes.toNat
  | 0x19 => s.bpp.toNat
  | 0x1A => s.compr.toNat
  | 0x1B => s.imgsize.toNat
  | 0x1C => s.xppm.toNat
  | 0x1D => s.yppm.toNat
  | 0x1E => s.clrused.toNat
  | 0x1F => s.clrimp.toNat
  | _ => 0

/-- `rd_ok` of `RDPIX(a)` (R176). -/
def State.rdOk (s : State) (a : Nat) : Bool := s.imgValid && decide (a < s.imgLen)

/-- `rd_data` of `RDPIX(a)` (R176): `PixRead(a)` in bounds, else zero. -/
def State.rdData (s : State) (a : Nat) : Pixel := if s.rdOk a then s.committed.read a else 0

/-- The document's `getPixel(x, y)`, row-major (R176, R51), defined for `x < IMG_W` and `y < IMG_H`. -/
def State.pixel (s : State) (x y : Nat) : Option Pixel :=
  if x < s.imgW.toNat ∧ y < s.imgH.toNat ∧ s.rdOk (y * s.imgW.toNat + x) then
    some (s.rdData (y * s.imgW.toNat + x))
  else none

/-- The output ports for given read addresses (R40, R43): combinational functions of the state before the edge. -/
def State.outputs (s : State) (rdAddr : Nat) (regAddr : BitVec 6) : OutPins :=
  { inReady := s.busy, busy := s.busy, done := s.done, failed := s.failed, err := s.err.code
    imgValid := s.imgValid, imgWidth := s.imgW, imgHeight := s.imgH
    rdData := s.rdData rdAddr, rdOk := s.rdOk rdAddr, regRdata := s.readReg regAddr }

end Sys2Proof.Machine
end

