-- ==== Sys2Proof/Machine/Ops.lean ====
section
/-! DEFINITION. The named operations: reading and writing the pixel store, capturing a header byte, failure entry and its
two exits (R193, R197), and the parts of a step that several operations share (R96, R116, R141, R144, R161, R165, R172,
R174). A part answers an `Effect`; `settle` ends the step with it, dropping every write when it failed (R193). -/

namespace Sys2Proof.Machine

/-! ### The pixel store -/

/-- The cell list with word `p` at index `a`, indices kept strictly rising. -/
def insertCell (a : Nat) (p : Pixel) : List (Nat × Pixel) → List (Nat × Pixel)
  | [] => [(a, p)]
  | (k, q) :: rest =>
    if a < k then (a, p) :: (k, q) :: rest
    else if a = k then (a, p) :: rest
    else (k, q) :: insertCell a p rest

/-- Every index of the list lies above `lo` and below `cap`, and the indices strictly rise. -/
def cellsFrom (cap : Nat) : Nat → List (Nat × Pixel) → Bool
  | _, [] => true
  | lo, (k, _) :: rest => decide (lo ≤ k) && decide (k < cap) && cellsFrom cap (k + 1) rest

/-- The canonical form of a bank: indices strictly rising, each one of `0 .. CAP - 1` (R27). A listed word is specified and
an unlisted one is not, so no entry repeats what an unlisted index reads as. -/
def Bank.wf (cap : Nat) (b : Bank) : Bool := cellsFrom cap 0 b.cells

/-- A bank with word `p` at index `a`. -/
def Bank.put (b : Bank) (a : Nat) (p : Pixel) : Bank := { b with cells := insertCell a p b.cells }

/-- A bank whose every word is unspecified (R29, R193): batch `gen` of free values. -/
def Bank.unspecified (gen : Nat) : Bank := { cells := [], gen := gen }

/-- The state with a bank replaced, by ACTIVE bit. -/
def State.setBank (s : State) (i : Bool) (b : Bank) : State :=
  if i then { s with pix1 := b } else { s with pix0 := b }

/-- `PixWrite(a, p)`: one whole word of the work bank (R9, R45, R53); an index that is no word of the store faults (log 8). -/
def State.pixWrite (s : State) (a : Nat) (p : Pixel) : Effect :=
  if a < s.cfg.cap then .ok (s.setBank (!s.active) (s.work.put a p)) else .fault (.noSuchPixel a)

/-! ### Ending a step -/

/-- The rest of a step after a part of it. -/
def Effect.bind (e : Effect) (f : State → Effect) : Effect :=
  match e with
  | .ok s => f s
  | .fail c => .fail c
  | .fault r => .fault r

/-- The work bank discarded: its contents become unspecified (R193; log 7). -/
def State.discardWork (s : State) : State :=
  { s.setBank (!s.active) (Bank.unspecified s.free) with free := s.free + 1 }

/-- Failure entry, `raise Fail(e)` (R193): PHASE and ERR are written and the work bank is discarded; every sequencer
register, NPIX, HDR, the committed descriptor and the committed bank stay. -/
def State.raiseFail (s : State) (e : ErrCode) : State :=
  { s.discardWork with phase := .failed, err := e }

/-- The end of a step: its writes on success, failure entry on the state `base` otherwise. `base` holds no write of the
step but the captured byte of a header capture (R193). -/
def settle (base : State) : Effect → Host.Outcome State Fault Refusal
  | .ok s => .next s
  | .fail e => .next (base.raiseFail e)
  | .fault r => .fault r

/-- Leaving FAILED, DONE or IDLE for a new load (R91, R197): the per-load state cleared, the committed image kept. -/
def State.beginLoad (s : State) : State :=
  { s with
    phase := .fhdr, hoff := 0, line := 0, col := 0, kb := 0, padcnt := 0
    hdr := Vector.replicate 54 0, pxb := 0, pxg := 0, pxr := 0, npix := 0, err := .none }

/-- RESET (R90, R29, R220): every register at its reset value, both banks unspecified. The parameters, and the model's
record of the environment (`port`, `inbox`), are not the block's registers and stay. -/
def State.toReset (s : State) : State :=
  { State.resetFor s.cfg with
    pix0 := Bank.unspecified s.free, pix1 := Bank.unspecified (s.free + 1), free := s.free + 2
    port := s.port, inbox := s.inbox }

/-! ### Header capture and its checks -/

/-- `HDR[HOFF] <- b` (R96). HOFF above 53 is reached by no run and captures nothing (log 15). -/
def State.capture (s : State) (b : Byte) : State := { s with hdr := s.hdr.setIfInBounds s.hoff.toNat b }

/-- SIGCHK (R116): reads `HDR[0]` and the byte being captured. -/
def sigchk (b : Byte) (s : State) : Effect :=
  if s.hdrAt 0 = 0x42 ∧ b = 0x4D then .ok s else .fail .signature

/-- VALIDATE (R141, in the order of R142). -/
def validate (s : State) : Effect :=
  if s.width = 0 ∨ s.height = 0 then .fail .zeroDim
  else if s.bpp ≠ 24 ∧ s.bpp ≠ 32 then .fail .bpp
  else if s.compr ≠ Config.biRgb then .fail .compression
  else .ok s

/-- ALLOC (R144). -/
def alloc (s : State) : Effect :=
  match mulSize s.cfg.maxsz s.w s.h with
  | none => .fail .overflow
  | some n =>
    if s.cfg.cap < n then .fail .capacity
    else .ok { s with npix := n, line := 0, col := 0, kb := 0, padcnt := 0, phase := .pix }

/-- What HCAP does after the capture (R96): the checks read the views with the byte captured, and the conditions read the
HOFF of before the step. -/
def afterCapture (b : Byte) (s : State) : Effect :=
  if s.hoff = 1 then (sigchk b s).bind fun t => .ok { t with hoff := t.hoff + 1 }
  else if s.hoff = 13 then .ok { s with phase := .ihdr, hoff := s.hoff + 1 }
  else if s.hoff = 53 then (validate s).bind alloc
  else if s.hoff.toNat < 53 then .ok { s with hoff := s.hoff + 1 }
  else .ok s

/-- The whole step of a header byte (R96): the byte is kept even if a check fails. -/
def headerByte (b : Byte) (s : State) : Host.Outcome State Fault Refusal :=
  settle (s.capture b) (afterCapture b (s.capture b))

/-- A field capture (R110 to R114, R130 to R140): HCAP at the field's offsets `lo` to `hi` in its phase. Anywhere else the
sequencer does not select the operation and it does nothing (R74; log 10). -/
def fieldCapture (phase : Phase) (lo hi : Nat) (b : Byte) (s : State) : Host.Outcome State Fault Refusal :=
  if s.phase = phase ∧ lo ≤ s.hoff.toNat ∧ s.hoff.toNat ≤ hi then headerByte b s else .next s

/-! ### The scanline loop -/

/-- ROWCHK (R161). -/
def rowchk (s : State) : Effect :=
  if s.bytesPerPixel < 3 ∨ 4 < s.bytesPerPixel ∨ s.npix < (s.h - 1 - s.line.toNat) * s.w + s.w then .fail .state
  else .ok s

/-- ROWCHK at the first byte of a row (R161, R163, R164). -/
def rowchkAtStart (s : State) : Effect :=
  if s.col = 0 ∧ s.kb = 0 then rowchk s else .ok s

/-- FINALIZE (R174): re-run `isValid()` on the new image, then commit all of it at once. -/
def finalize (s : State) : Effect :=
  match mulSize s.cfg.maxsz s.w s.h with
  | none => .fail .state
  | some n =>
    if 0 < s.npix ∧ n ≤ s.npix then
      .ok { s with
        active := !s.active, imgW := s.width, imgH := s.height, imgLen := s.npix, imgValid := true, phase := .done }
    else .fail .state

/-- ROWEND (R172). -/
def rowend (s : State) : Effect :=
  if s.line.toNat + 1 < s.h then .ok { s with line := s.line + 1, phase := .pix } else finalize s

/-- What PIXDONE does after the store (R165): next column, padding, or the end of the row. -/
def nextColumn (s : State) : Effect :=
  if s.col.toNat + 1 < s.w then .ok { s with kb := 0, col := s.col + 1 }
  else if 0 < s.padlen then .ok { s with kb := 0, col := 0, phase := .pad, padcnt := 0 }
  else rowend { s with kb := 0, col := 0 }

/-- PIXDONE (R165): the pixel stored bottom-up to top-down, then the sequencer advanced. -/
def pixdone (r g bl a : Byte) (s : State) : Effect :=
  (s.pixWrite s.pixelAddr (pixelWord r g bl a)).bind nextColumn

/-- The byte of a 24-bit pixel by its role (R163, R162). KB is never 3 here; the pseudocode gives that case no write
(log 15). -/
def pixel24Byte (b : Byte) (s : State) : Effect :=
  match s.kb.toNat with
  | 0 => .ok { s with pxb := b, kb := 1 }
  | 1 => .ok { s with pxg := b, kb := 2 }
  | 2 => pixdone b s.pxg s.pxb 0x00 s
  | _ => .ok s

/-- The byte of a 32-bit pixel by its role (R164, R162). -/
def pixel32Byte (b : Byte) (s : State) : Effect :=
  match s.kb.toNat with
  | 0 => .ok { s with pxb := b, kb := 1 }
  | 1 => .ok { s with pxg := b, kb := 2 }
  | 2 => .ok { s with pxr := b, kb := 3 }
  | _ => pixdone s.pxr s.pxg s.pxb b s

/-- The step of a byte in PIX at 24 bpp (R163). -/
def pix24Step (b : Byte) (s : State) : Host.Outcome State Fault Refusal :=
  settle s ((rowchkAtStart s).bind (pixel24Byte b))

/-- The step of a byte in PIX at 32 bpp (R164). -/
def pix32Step (b : Byte) (s : State) : Host.Outcome State Fault Refusal :=
  settle s ((rowchkAtStart s).bind (pixel32Byte b))

/-- One padding byte dropped (R171). -/
def padByte (s : State) : Effect :=
  if s.padcnt.toNat + 1 < s.padlen then .ok { s with padcnt := s.padcnt + 1 } else rowend { s with padcnt := 0 }

/-! ### Presenting an instruction -/

/-- The state brought to a sequencer position, with these bytes presented next as beats (log 13). Only what the position
selects by is written: PHASE, HOFF, and at a pixel position BPP and KB. -/
def State.present (s : State) (sel : Selector) (bytes : List Byte) : State :=
  let s := { s with phase := sel.phase, hoff := sel.hoff, inbox := bytes.map fun b => .edge (.beat b) }
  if sel.phase = .pix then
    { s with
      kb := 0
      hdr := (s.hdr.setIfInBounds 28 (sel.bpp.extractLsb' 0 8)).setIfInBounds 29 (sel.bpp.extractLsb' 8 8) }
  else s

/-- The state in which the very next step performs the operation of a table word (log 1, log 13). -/
def State.presentTableWord (s : State) (nbits w : Nat) : State :=
  if nbits = 8 then
    if s.busy then { s with inbox := [.edge (.beat (BitVec.ofNat 8 w))] }
    else s.present ⟨.fhdr, 0, 0, s.cfg.sz⟩ (bytesOf 1 w)
  else
    match tablePlace nbits w with
    | some (sel, bytes) => s.present sel bytes
    | none => s

end Sys2Proof.Machine
end

