-- ==== Sys2Proof/Machine/Scanline.lean ====
section
/-! DEFINITION. The stream operations after the header (R163, R164, R171), each under the condition its rule states. -/

namespace Sys2Proof.Machine

/-- PIX24 (R163): condition `PHASE = PIX`, `BPP = 24`; elsewhere the sequencer does not select it (log 10). -/
def execPix24 (b : Byte) (s : State) : Host.Outcome State Fault Refusal :=
  if s.phase = .pix ∧ s.bpp = 24 then pix24Step b s else .next s

/-- PIX32 (R164): condition `PHASE = PIX`, `BPP = 32`; elsewhere the sequencer does not select it (log 10). -/
def execPix32 (b : Byte) (s : State) : Host.Outcome State Fault Refusal :=
  if s.phase = .pix ∧ s.bpp = 32 then pix32Step b s else .next s

/-- PADSKIP (R171): condition `PHASE = PAD`; the byte's value is ignored (R81). -/
def execPadskip (_ : Byte) (s : State) : Host.Outcome State Fault Refusal :=
  if s.phase = .pad then settle s (padByte s) else .next s

end Sys2Proof.Machine
end

