-- ==== Sys2Proof/Machine/Events.lean ====
section
/-! DEFINITION. The events of R8: RESET (R90), START (R91, R92), EOS (R93, R94), BYTE (R95) and the host reads RDREG (R99)
and RDPIX (R176). -/

namespace Sys2Proof.Machine

/-- RESET (R90): allowed in every phase. -/
def execReset (s : State) : Host.Outcome State Fault Refusal := .next s.toReset

/-- START (R91): ignored while BUSY (R92). -/
def execStart (s : State) : Host.Outcome State Fault Refusal :=
  if s.busy then .next s else .next s.beginLoad

/-- EOS (R93, R94): not accepted outside BUSY (R95). -/
def execEos (s : State) : Host.Outcome State Fault Refusal :=
  if s.busy then
    if s.phase = .fhdr ∧ s.hoff = 0 then .next (s.raiseFail .openFailed)
    else if s.cfg.finalPadOptional = true ∧ s.phase = .pad ∧ s.line.toNat + 1 = s.h then
      settle s (finalize { s with padcnt := 0 })
    else .next (s.raiseFail .io)
  else .next s

/-- BYTE (R95): the operation PHASE selects; not accepted outside BUSY. -/
def execByte (b : Byte) (s : State) : Host.Outcome State Fault Refusal :=
  match s.phase with
  | .fhdr | .ihdr => headerByte b s
  | .pix => if s.bpp = 24 then execPix24 b s else execPix32 b s
  | .pad => execPadskip b s
  | .idle | .done | .failed => .next s

/-- RDREG (R99, R26): the result appears on `reg_rdata`; the block's state does not change. -/
def execRdreg (n : BitVec 6) (s : State) : Host.Outcome State Fault Refusal :=
  .next { s with port := { s.port with regRdata := s.readReg n } }

/-- RDPIX (R176): the result appears on `rd_ok` and `rd_data`; the block's state does not change. An index in bounds that
is no word of the store faults (log 8). -/
def execRdpix (a : Nat) (s : State) : Host.Outcome State Fault Refusal :=
  if s.rdOk a = true ∧ s.cfg.cap ≤ a then .fault (.noSuchPixel a)
  else .next { s with port := { s.port with rdOk := s.rdOk a, rdData := s.rdData a } }

end Sys2Proof.Machine
end

