-- ==== Sys2Proof/Machine/FileHeader.lean ====
section
/-! DEFINITION. The five captures of the file header (R60, R110 to R114). FH_SIG reaches SIGCHK at offset 1 and FH_OFFBITS
reaches IHDR at offset 13, both inside HCAP (R96). -/

namespace Sys2Proof.Machine

/-- FH_SIG (R110). -/
def execFhSig (b : Byte) (s : State) : Host.Outcome State Fault Refusal := fieldCapture .fhdr 0 1 b s

/-- FH_FSIZE (R111). -/
def execFhFsize (b : Byte) (s : State) : Host.Outcome State Fault Refusal := fieldCapture .fhdr 2 5 b s

/-- FH_RSV1 (R112). -/
def execFhRsv1 (b : Byte) (s : State) : Host.Outcome State Fault Refusal := fieldCapture .fhdr 6 7 b s

/-- FH_RSV2 (R113). -/
def execFhRsv2 (b : Byte) (s : State) : Host.Outcome State Fault Refusal := fieldCapture .fhdr 8 9 b s

/-- FH_OFFBITS (R114). -/
def execFhOffbits (b : Byte) (s : State) : Host.Outcome State Fault Refusal := fieldCapture .fhdr 10 13 b s

end Sys2Proof.Machine
end

