-- ==== Sys2Proof/Machine/InfoHeader.lean ====
section
/-! DEFINITION. The eleven captures of the info header (R61, R130 to R140). IH_CLRIMP reaches VALIDATE and ALLOC at offset
53, inside HCAP (R96, R142). -/

namespace Sys2Proof.Machine

/-- IH_SIZE (R130). -/
def execIhSize (b : Byte) (s : State) : Host.Outcome State Fault Refusal := fieldCapture .ihdr 14 17 b s

/-- IH_WIDTH (R131). -/
def execIhWidth (b : Byte) (s : State) : Host.Outcome State Fault Refusal := fieldCapture .ihdr 18 21 b s

/-- IH_HEIGHT (R132). -/
def execIhHeight (b : Byte) (s : State) : Host.Outcome State Fault Refusal := fieldCapture .ihdr 22 25 b s

/-- IH_PLANES (R133). -/
def execIhPlanes (b : Byte) (s : State) : Host.Outcome State Fault Refusal := fieldCapture .ihdr 26 27 b s

/-- IH_BPP (R134). -/
def execIhBpp (b : Byte) (s : State) : Host.Outcome State Fault Refusal := fieldCapture .ihdr 28 29 b s

/-- IH_COMPR (R135). -/
def execIhCompr (b : Byte) (s : State) : Host.Outcome State Fault Refusal := fieldCapture .ihdr 30 33 b s

/-- IH_IMGSIZE (R136). -/
def execIhImgsize (b : Byte) (s : State) : Host.Outcome State Fault Refusal := fieldCapture .ihdr 34 37 b s

/-- IH_XPPM (R137). -/
def execIhXppm (b : Byte) (s : State) : Host.Outcome State Fault Refusal := fieldCapture .ihdr 38 41 b s

/-- IH_YPPM (R138). -/
def execIhYppm (b : Byte) (s : State) : Host.Outcome State Fault Refusal := fieldCapture .ihdr 42 45 b s

/-- IH_CLRUSED (R139). -/
def execIhClrused (b : Byte) (s : State) : Host.Outcome State Fault Refusal := fieldCapture .ihdr 46 49 b s

/-- IH_CLRIMP (R140). -/
def execIhClrimp (b : Byte) (s : State) : Host.Outcome State Fault Refusal := fieldCapture .ihdr 50 53 b s

end Sys2Proof.Machine
end

