-- ==== Sys2Proof/Machine/Internal.lean ====
section
/-! DEFINITION. The operations performed inside the step of another (format INTERNAL, R83), each as a step of its own: its
pseudocode run on the state as it stands (log 11). -/

namespace Sys2Proof.Machine

/-- HCAP (R96), with its condition. -/
def execHcap (b : Byte) (s : State) : Host.Outcome State Fault Refusal :=
  if s.phase = .fhdr ∨ s.phase = .ihdr then headerByte b s else .next s

/-- SIGCHK (R116). -/
def execSigchk (b : Byte) (s : State) : Host.Outcome State Fault Refusal := settle s (sigchk b s)

/-- VALIDATE (R141). -/
def execValidate (s : State) : Host.Outcome State Fault Refusal := settle s (validate s)

/-- ALLOC (R144). -/
def execAlloc (s : State) : Host.Outcome State Fault Refusal := settle s (alloc s)

/-- ROWCHK (R161). -/
def execRowchk (s : State) : Host.Outcome State Fault Refusal := settle s (rowchk s)

/-- PIXDONE (R165). -/
def execPixdone (r g bl a : Byte) (s : State) : Host.Outcome State Fault Refusal := settle s (pixdone r g bl a s)

/-- ROWEND (R172). -/
def execRowend (s : State) : Host.Outcome State Fault Refusal := settle s (rowend s)

/-- FINALIZE (R174). -/
def execFinalize (s : State) : Host.Outcome State Fault Refusal := settle s (finalize s)

/-- FAIL (R193). -/
def execFail (e : ErrCode) (s : State) : Host.Outcome State Fault Refusal := .next (s.raiseFail e)

end Sys2Proof.Machine
end

