-- ==== Sys2Proof/Machine/Dispatch.lean ====
section
/-! DEFINITION. One arm per operation of `spec/opcode_table.json`. -/

namespace Sys2Proof.Machine

def exec (i : Instr) (s : State) : Host.Outcome State Fault Refusal :=
  match i with
  | .reset => Sys2Proof.Machine.execReset s
  | .start => Sys2Proof.Machine.execStart s
  | .eos => Sys2Proof.Machine.execEos s
  | .byte b => Sys2Proof.Machine.execByte b s
  | .rdreg n => Sys2Proof.Machine.execRdreg n s
  | .rdpix a => Sys2Proof.Machine.execRdpix a s
  | .fhSig b => Sys2Proof.Machine.execFhSig b s
  | .fhFsize b => Sys2Proof.Machine.execFhFsize b s
  | .fhRsv1 b => Sys2Proof.Machine.execFhRsv1 b s
  | .fhRsv2 b => Sys2Proof.Machine.execFhRsv2 b s
  | .fhOffbits b => Sys2Proof.Machine.execFhOffbits b s
  | .ihSize b => Sys2Proof.Machine.execIhSize b s
  | .ihWidth b => Sys2Proof.Machine.execIhWidth b s
  | .ihHeight b => Sys2Proof.Machine.execIhHeight b s
  | .ihPlanes b => Sys2Proof.Machine.execIhPlanes b s
  | .ihBpp b => Sys2Proof.Machine.execIhBpp b s
  | .ihCompr b => Sys2Proof.Machine.execIhCompr b s
  | .ihImgsize b => Sys2Proof.Machine.execIhImgsize b s
  | .ihXppm b => Sys2Proof.Machine.execIhXppm b s
  | .ihYppm b => Sys2Proof.Machine.execIhYppm b s
  | .ihClrused b => Sys2Proof.Machine.execIhClrused b s
  | .ihClrimp b => Sys2Proof.Machine.execIhClrimp b s
  | .pix24 b => Sys2Proof.Machine.execPix24 b s
  | .pix32 b => Sys2Proof.Machine.execPix32 b s
  | .padskip b => Sys2Proof.Machine.execPadskip b s
  | .hcap b => Sys2Proof.Machine.execHcap b s
  | .sigchk b => Sys2Proof.Machine.execSigchk b s
  | .validate => Sys2Proof.Machine.execValidate s
  | .alloc => Sys2Proof.Machine.execAlloc s
  | .rowchk => Sys2Proof.Machine.execRowchk s
  | .pixdone r g bl a => Sys2Proof.Machine.execPixdone r g bl a s
  | .rowend => Sys2Proof.Machine.execRowend s
  | .finalize => Sys2Proof.Machine.execFinalize s
  | .fail e => Sys2Proof.Machine.execFail e s

end Sys2Proof.Machine
end

