-- ==== Sys2Proof/Machine/Step.lean ====
section
/-! DEFINITION. One step: the environment's oldest pending input is taken and the operation it decodes to is performed. -/

namespace Sys2Proof.Machine

/-- One step. With nothing presented the block waits with all state unchanged (R227; log 2). Parameters outside their
constraints have no meaning (U20; log 4). Otherwise the oldest input is taken from `inbox` and decoded: an operation is
executed; an edge without an event leaves the block as it is (R41, R42; log 3). -/
def step (s : State) : Host.Outcome State Fault Refusal :=
  if s.cfg.wf then
    match s.inbox with
    | [] => .next s
    | x :: rest =>
      match decode s.selector x with
      | .ok i => exec i { s with inbox := rest }
      | .error .addressTooWide => .refused .addressTooWide
      | .error .idleEdge => .next { s with inbox := rest }
      | .error .beatNotReady => .next { s with inbox := rest }
      | .error .startWhileBusy => .next { s with inbox := rest }
  else .refused .parametersOutOfRange

/-- The state in which the very next step performs the operation of a word of `spec/opcode_table.json` (log 13). -/
def State.withFetchWord (s : State) (nbits w : Nat) : State := s.presentTableWord nbits w

end Sys2Proof.Machine
end

