-- ==== Sys2Proof/Machine/Stream.lean ====
section
/-! DEFINITION. The environment of one load (R44, R98, R222): a stream delivered byte by byte while the block accepts, then
end of stream; what the stream's header says (R13, R48, R65); and the picture a good stream stands for (R177). Claims about
whole loads are stated with these. -/

namespace Sys2Proof.Machine

/-- The rest of a run after one outcome. -/
def andThen (o : Host.Outcome State Fault Refusal) (k : State → Host.Outcome State Fault Refusal) :
    Host.Outcome State Fault Refusal :=
  match o with
  | .next s => k s
  | .fault r => .fault r
  | .refused r => .refused r

/-- The stream delivered to a block (R44): one BYTE for each byte the block accepts, in order, then EOS if it still
accepts. Bytes it does not accept are never events (R41, R50). -/
def deliver : List Byte → State → Host.Outcome State Fault Refusal
  | [], s => if s.busy then exec .eos s else .next s
  | b :: rest, s => if s.busy then andThen (exec (.byte b) s) (deliver rest) else .next s

/-- A whole load (R98, R222): START, then the stream. -/
def load (f : List Byte) (s : State) : Host.Outcome State Fault Refusal :=
  andThen (exec .start s) (deliver f)

/-- The number of bytes of a stream the block accepts (R98). -/
def consumed : List Byte → State → Nat
  | [], _ => 0
  | b :: rest, s =>
    if s.busy then
      match exec (.byte b) s with
      | .next t => consumed rest t + 1
      | .fault _ => 0
      | .refused _ => 0
    else 0

/-- The inputs that present one load (R40, R44, R222): a START edge, one beat per byte, the end-of-stream beat. -/
def loadInputs (f : List Byte) : List Input :=
  .edge .startEdge :: (f.map fun b => .edge (.beat b)) ++ [.edge .eosBeat]

/-- `f[i]` (R44). -/
def byteAt (f : List Byte) (i : Nat) : Byte := f.getD i 0

/-- A 2-byte field of a stream at offset `i` (R63). -/
def fileLe16 (f : List Byte) (i : Nat) : Nat := (byteAt f i).toNat + 2 ^ 8 * (byteAt f (i + 1)).toNat

/-- A 4-byte field of a stream at offset `i` (R63). -/
def fileLe32 (f : List Byte) (i : Nat) : Nat :=
  (byteAt f i).toNat + 2 ^ 8 * (byteAt f (i + 1)).toNat + 2 ^ 16 * (byteAt f (i + 2)).toNat
    + 2 ^ 24 * (byteAt f (i + 3)).toNat

/-- `W` of a stream (R13). -/
def fileW (f : List Byte) : Nat := fileLe32 f 18

/-- `H` of a stream (R13). -/
def fileH (f : List Byte) : Nat := fileLe32 f 22

/-- `B` of a stream (R14). -/
def fileB (f : List Byte) : Nat := fileLe16 f 28 / 8

/-- `PADLEN` of a stream (R170). -/
def filePadlen (cfg : Config.Params) (f : List Byte) : Nat :=
  padding (fileW f) (if cfg.legacyPad then 3 else fileB f)

/-- `ROWBYTES` of a stream (R48). -/
def rowBytes (cfg : Config.Params) (f : List Byte) : Nat := fileW f * fileB f + filePadlen cfg f

/-- `NEED`, the bytes a successful load consumes (R48). -/
def need (cfg : Config.Params) (f : List Byte) : Nat := 54 + fileH f * rowBytes cfg f

/-- The header of a stream is one the block accepts: 54 bytes, the signature, nonzero dimensions, a supported depth, no
compression (R65), and a size that fits the store (R144). -/
structure HeaderLegal (cfg : Config.Params) (f : List Byte) : Prop where
  whole : 54 ≤ f.length
  signature : byteAt f 0 = 0x42 ∧ byteAt f 1 = 0x4D
  dimensions : fileW f ≠ 0 ∧ fileH f ≠ 0
  depth : fileLe16 f 28 = 24 ∨ fileLe16 f 28 = 32
  compression : fileLe32 f 30 = 0
  fits : fileW f * fileH f ≤ cfg.cap

/-- The pixel word at column `x`, memory row `y` of the picture a stream stands for (R177). -/
def filePixel (cfg : Config.Params) (f : List Byte) (x y : Nat) : Pixel :=
  let o := 54 + (fileH f - 1 - y) * rowBytes cfg f + x * fileB f
  pixelWord (byteAt f (o + 2)) (byteAt f (o + 1)) (byteAt f o) (if fileB f = 4 then byteAt f (o + 3) else 0)

end Sys2Proof.Machine
end

