-- ==== Sys2Proof/Safety.lean ====
section
/-! DEFINITION. What holds in every reachable state (R30 and the clauses that make it inductive), reachability, and what
two states share when the spec's state, or only the committed image, is the same. -/

namespace Sys2Proof.Machine

/-- PHASE is PIX or PAD: the scanline loop of a load (R160). -/
abbrev State.inRows (s : State) : Prop := s.phase = .pix ∨ s.phase = .pad

/-- The invariant: R30 (b) to (h), the bounds of the SZ-bit registers (R22, R25), the canonical form of both banks, and
which words of the pixel store are specified (R175). R30 (a) holds by the type of PHASE. -/
structure State.Inv (s : State) : Prop where
  /-- R3, R4. -/
  parameters : s.cfg.wf = true
  /-- R30 (b). -/
  fileHeader : s.phase = .fhdr → s.hoff.toNat ≤ 13
  /-- R30 (b). -/
  infoHeader : s.phase = .ihdr → 14 ≤ s.hoff.toNat ∧ s.hoff.toNat ≤ 53
  /-- The signature was judged at offset 1 (R116). -/
  signature : (s.phase = .fhdr ∧ 2 ≤ s.hoff.toNat) ∨ s.phase = .ihdr ∨ s.inRows → s.hdrAt 0 = 0x42 ∧ s.hdrAt 1 = 0x4D
  /-- NPIX is 0 until ALLOC (R22, R91). -/
  notSized : s.phase = .idle ∨ s.phase = .fhdr ∨ s.phase = .ihdr → s.npix = 0
  /-- R30 (c). -/
  validated : s.inRows →
    1 ≤ s.w ∧ 1 ≤ s.h ∧ (s.bpp = 24 ∨ s.bpp = 32) ∧ s.compr = 0 ∧ s.npix = s.w * s.h ∧ s.line.toNat < s.h
  /-- R18: after a successful header HOFF keeps 53. -/
  hoffKept : s.inRows ∨ s.phase = .done → s.hoff = 53
  /-- R30 (d). -/
  pixel : s.phase = .pix → s.col.toNat < s.w ∧ s.kb.toNat < s.bytesPerPixel ∧ s.padcnt = 0
  /-- R30 (e). -/
  padding : s.phase = .pad → 1 ≤ s.padlen ∧ s.padcnt.toNat < s.padlen ∧ s.col = 0 ∧ s.kb = 0
  /-- R30 (f). -/
  failure : s.err ≠ .none ↔ s.phase = .failed
  /-- R22: NPIX never exceeds CAP. -/
  sized : s.npix ≤ s.cfg.cap
  /-- R30 (g). -/
  committed : s.imgValid = true → s.imgLen = s.imgW.toNat * s.imgH.toNat ∧ 1 ≤ s.imgLen ∧ s.imgLen ≤ s.cfg.cap
  /-- The empty image of R29. -/
  empty : s.imgValid = false → s.imgW = 0 ∧ s.imgH = 0 ∧ s.imgLen = 0 ∧ s.active = false
  /-- R30 (h). -/
  done : s.phase = .done → s.imgValid = true ∧ s.imgW = s.width ∧ s.imgH = s.height ∧ s.imgLen = s.npix
  /-- The canonical form of PIX[0]. -/
  bank0 : s.pix0.wf s.cfg.cap = true
  /-- The canonical form of PIX[1]. -/
  bank1 : s.pix1.wf s.cfg.cap = true
  /-- R175: no word of the committed image is unspecified. -/
  committedSpecified : s.imgValid = true → ∀ a, a < s.imgLen → (s.committed.find a).isSome = true
  /-- R52, R175: in PIX the work bank is specified in every finished row and in the finished columns of this row. -/
  rowsWritten : s.phase = .pix → ∀ a, a < s.npix →
    (s.h - 1 - s.line.toNat) * s.w + s.w ≤ a ∨
      ((s.h - 1 - s.line.toNat) * s.w ≤ a ∧ a < (s.h - 1 - s.line.toNat) * s.w + s.col.toNat) →
    (s.work.find a).isSome = true
  /-- R52, R175: in PAD this row is finished too. -/
  rowWritten : s.phase = .pad → ∀ a, a < s.npix → (s.h - 1 - s.line.toNat) * s.w ≤ a → (s.work.find a).isSome = true

/-- The states a block can be in: reset at legal parameters, whatever the environment presents, and steps (R10, R221). -/
inductive Reachable : State → Prop where
  | reset (cfg : Config.Params) (h : cfg.wf = true) : Reachable (State.resetFor cfg)
  | present (s : State) (xs : List Input) (h : Reachable s) : Reachable { s with inbox := xs }
  | step (s t : State) (h : Reachable s) (hs : step s = .next t) : Reachable t

/-- An outcome with its next state changed. -/
def mapNext (g : State → State) : Host.Outcome State Fault Refusal → Host.Outcome State Fault Refusal
  | .next s => .next (g s)
  | .fault r => .fault r
  | .refused r => .refused r

/-- A state with one capture byte replaced (R12). -/
def State.setHdr (s : State) (j : Nat) (v : Byte) : State := { s with hdr := s.hdr.setIfInBounds j v }

/-- VALIDATE passes (R141): nonzero dimensions, a supported depth, no compression. -/
abbrev State.headerValid (s : State) : Prop :=
  s.width ≠ 0 ∧ s.height ≠ 0 ∧ (s.bpp = 24 ∨ s.bpp = 32) ∧ s.compr = 0

/-- ALLOC passes (R144): the exact product fits SZ bits and the store. -/
abbrev State.sizeFits (s : State) : Prop := s.w * s.h < 2 ^ s.cfg.sz ∧ s.w * s.h ≤ s.cfg.cap

/-- The stream offsets of the eleven header fields no rule checks or uses: FSIZE, RSV1, RSV2, OFFBITS, IHSIZE, PLANES,
IMGSIZE, XPPM, YPPM, CLRUSED, CLRIMP (R13, R62). -/
def uncheckedOffset (j : Nat) : Bool :=
  (decide (2 ≤ j) && decide (j ≤ 17)) || j == 26 || j == 27 || (decide (34 ≤ j) && decide (j ≤ 53))

/-- Two states with the same block state (R11): they differ at most in the model's record of the environment. -/
abbrev State.sameBlock (s t : State) : Prop := { s with port := t.port, inbox := t.inbox } = t

/-- Two states with the same committed image: descriptor and committed bank (R25, R27). -/
abbrev State.sameImage (s t : State) : Prop :=
  s.imgValid = t.imgValid ∧ s.imgW = t.imgW ∧ s.imgH = t.imgH ∧ s.imgLen = t.imgLen ∧ s.active = t.active ∧
    s.committed = t.committed

end Sys2Proof.Machine
end

