-- ==== Sys2Proof/Certificates/Slice0/Obligations.lean ====
section
/-! DEFINITION. The statements for the provers. A next state is written field by field or as a record update, so what is not
named is unchanged. `exec (.fail e) s` is how a statement says `raise Fail(e)`; `FailureEntryKeepsAllButCause` says what
that is. -/

open Sys2Proof Sys2Proof.Machine

/-! ### Decoding and encoding -/

/-- Every well-formed operation, presented where the sequencer selects it, decodes to itself with every operand. -/
def Obligations.DecodeOfEncodeIsTheInstruction : Prop :=
  ∀ (sel : Selector) (i : Instr), i.wf sel.sz = true → i.selectedAt sel = true →
    ∃ x, encode i = some x ∧ decode sel x = .ok i

/-- The decoder gives only well-formed operations that the sequencer selects, and never an internal one (R74, R83). -/
def Obligations.DecodedIsWellFormedAndSelected : Prop :=
  ∀ (sel : Selector) (x : Input) (i : Instr), decode sel x = .ok i →
    i.wf sel.sz = true ∧ i.selectedAt sel = true ∧ i.format ≠ .internal

/-- R42: the priority of the events of one rising edge. -/
def Obligations.EventOfAnEdgeByPriority : Prop :=
  ∀ (sel : Selector) (p : Pins),
    (p.rst = true → decode sel (.edge p) = .ok .reset) ∧
    (p.rst = false → p.start = true → sel.phase.busy = false → decode sel (.edge p) = .ok .start) ∧
    (p.rst = false → sel.phase.busy = true → p.inValid = true →
      decode sel (.edge p) = .ok (if p.inEos then .eos else streamOp sel p.inData)) ∧
    (p.rst = false → sel.phase.busy = true → p.inValid = false → ∃ e, decode sel (.edge p) = .error e) ∧
    (p.rst = false → sel.phase.busy = false → p.start = false → ∃ e, decode sel (.edge p) = .error e)

/-- The operation map of the dispatcher: PHASE, HOFF and BPP select the operation of a byte. -/
def Obligations.StreamOperationSelectedBySequencer : Prop :=
  ∀ (sel : Selector) (b : Byte),
    (sel.phase = .fhdr →
      (sel.hoff.toNat ≤ 1 → streamOp sel b = .fhSig b) ∧
      (2 ≤ sel.hoff.toNat → sel.hoff.toNat ≤ 5 → streamOp sel b = .fhFsize b) ∧
      (6 ≤ sel.hoff.toNat → sel.hoff.toNat ≤ 7 → streamOp sel b = .fhRsv1 b) ∧
      (8 ≤ sel.hoff.toNat → sel.hoff.toNat ≤ 9 → streamOp sel b = .fhRsv2 b) ∧
      (10 ≤ sel.hoff.toNat → sel.hoff.toNat ≤ 13 → streamOp sel b = .fhOffbits b)) ∧
    (sel.phase = .ihdr →
      (14 ≤ sel.hoff.toNat → sel.hoff.toNat ≤ 17 → streamOp sel b = .ihSize b) ∧
      (18 ≤ sel.hoff.toNat → sel.hoff.toNat ≤ 21 → streamOp sel b = .ihWidth b) ∧
      (22 ≤ sel.hoff.toNat → sel.hoff.toNat ≤ 25 → streamOp sel b = .ihHeight b) ∧
      (26 ≤ sel.hoff.toNat → sel.hoff.toNat ≤ 27 → streamOp sel b = .ihPlanes b) ∧
      (28 ≤ sel.hoff.toNat → sel.hoff.toNat ≤ 29 → streamOp sel b = .ihBpp b) ∧
      (30 ≤ sel.hoff.toNat → sel.hoff.toNat ≤ 33 → streamOp sel b = .ihCompr b) ∧
      (34 ≤ sel.hoff.toNat → sel.hoff.toNat ≤ 37 → streamOp sel b = .ihImgsize b) ∧
      (38 ≤ sel.hoff.toNat → sel.hoff.toNat ≤ 41 → streamOp sel b = .ihXppm b) ∧
      (42 ≤ sel.hoff.toNat → sel.hoff.toNat ≤ 45 → streamOp sel b = .ihYppm b) ∧
      (46 ≤ sel.hoff.toNat → sel.hoff.toNat ≤ 49 → streamOp sel b = .ihClrused b) ∧
      (50 ≤ sel.hoff.toNat → sel.hoff.toNat ≤ 53 → streamOp sel b = .ihClrimp b)) ∧
    (sel.phase = .pix → sel.bpp = 24 → streamOp sel b = .pix24 b) ∧
    (sel.phase = .pix → sel.bpp = 32 → streamOp sel b = .pix32 b) ∧
    (sel.phase = .pad → streamOp sel b = .padskip b)

/-- A few words written out from the spec's encodings (R40, R60, R64, R70, R83). That the 24-bit table word's bits 7:0 are
the first stream byte, blue, is the model's choice (log 20), and so are the table words' places (log 13). -/
def Obligations.EncodedWordsDecode : Prop :=
  decodeTableWord 16 0x4D42 = some (.fhSig 0x42) ∧
  decodeTableWord 32 0x00000000 = some (.ihCompr 0x00) ∧
  decodeTableWord 24 0x302010 = some (.pix24 0x10) ∧
  decodeTableWord 16 0x0020 = some (.pix32 0x00) ∧
  decode ⟨.idle, 0, 0, 32⟩ (.edge ⟨true, true, true, false, 0⟩) = .ok .reset ∧
  decode ⟨.done, 53, 24, 32⟩ (.edge ⟨false, true, true, false, 0x42⟩) = .ok .start ∧
  decode ⟨.pad, 53, 24, 32⟩ (.edge ⟨false, true, true, true, 0⟩) = .ok .eos ∧
  decode ⟨.pad, 53, 24, 32⟩ (.edge ⟨false, false, true, false, 0x77⟩) = .ok (.padskip 0x77) ∧
  decode ⟨.ihdr, 21, 0, 32⟩ (.edge ⟨false, false, true, false, 0x04⟩) = .ok (.ihWidth 0x04) ∧
  decode ⟨.idle, 0, 0, 32⟩ (.readReg 0x1F) = .ok (.rdreg 0x1F) ∧
  decode ⟨.idle, 0, 0, 32⟩ (.readPix 0xFFFFFFFF) = .ok (.rdpix 0xFFFFFFFF) ∧
  decode ⟨.idle, 0, 0, 32⟩ (.readPix 0x100000000) = .error .addressTooWide

/-! ### A step -/

/-- With legal parameters, a step takes the oldest input and runs exactly the operation it decodes to. -/
def Obligations.StepRunsDecodedInstruction : Prop :=
  ∀ (s : State) (x : Input) (rest : List Input) (i : Instr), s.cfg.wf = true → s.inbox = x :: rest →
    decode s.selector x = .ok i → step s = exec i { s with inbox := rest }

/-- An edge without an event leaves the block as it is; with nothing presented it waits; a pixel address wider than the
port and parameters outside their constraints are refused by name (the refusals and the inbox are the model's choices, log
1 to 4 and 13). -/
def Obligations.StepWithoutEventChangesNothing : Prop :=
  ∀ (s : State),
    (s.cfg.wf = true → s.inbox = [] → step s = .next s) ∧
    (∀ x rest e, s.cfg.wf = true → s.inbox = x :: rest → decode s.selector x = .error e → e ≠ .addressTooWide →
      step s = .next { s with inbox := rest }) ∧
    (∀ x rest, s.cfg.wf = true → s.inbox = x :: rest → decode s.selector x = .error .addressTooWide →
      step s = .refused .addressTooWide) ∧
    (s.cfg.wf = false → step s = .refused .parametersOutOfRange)

/-! ### The host events -/

/-- After RESET every register has its value in the table of R29, no word of either bank is specified, and no port returns
one. The model's choices in it: an unspecified word is one the bank does not list, so `find` answers none (log 6); the
parameters are carried in State and RESET keeps them (log 4); the record of the read ports (log 9) and the inbox (log 1) are
the environment's and RESET leaves them. -/
def Obligations.ResetGivesEveryRegisterItsResetValue : Prop :=
  ∀ (s : State), ∃ t, exec .reset s = .next t ∧
    t.phase = .idle ∧ t.hoff = 0 ∧ t.line = 0 ∧ t.col = 0 ∧ t.kb = 0 ∧ t.padcnt = 0 ∧ (∀ j, t.hdrAt j = 0) ∧
    t.pxb = 0 ∧ t.pxg = 0 ∧ t.pxr = 0 ∧ t.npix = 0 ∧ t.err = .none ∧ t.imgValid = false ∧ t.imgW = 0 ∧ t.imgH = 0 ∧
    t.imgLen = 0 ∧ t.active = false ∧ (∀ a, t.pix0.find a = none ∧ t.pix1.find a = none) ∧
    t.busy = false ∧ t.done = false ∧ t.failed = false ∧ (∀ a, t.rdOk a = false ∧ t.rdData a = 0) ∧
    t.cfg = s.cfg ∧ t.port = s.port ∧ t.inbox = s.inbox

/-- The machine starts at the reset state of R29 with the spec's reference parameters (R3 to R6). -/
def Obligations.MachineStartsAtResetState : Prop :=
  State.reset.cfg = { sz := 32, cap := 65536, legacyPad := false, finalPadOptional := false } ∧
  State.reset.phase = .idle ∧ State.reset.hoff = 0 ∧ State.reset.line = 0 ∧ State.reset.col = 0 ∧
  State.reset.kb = 0 ∧ State.reset.padcnt = 0 ∧ (∀ j, State.reset.hdrAt j = 0) ∧
  State.reset.pxb = 0 ∧ State.reset.pxg = 0 ∧ State.reset.pxr = 0 ∧ State.reset.npix = 0 ∧ State.reset.err = .none ∧
  State.reset.imgValid = false ∧ State.reset.imgW = 0 ∧ State.reset.imgH = 0 ∧ State.reset.imgLen = 0 ∧
  State.reset.active = false ∧ (∀ a, State.reset.pix0.find a = none ∧ State.reset.pix1.find a = none)

/-- R91: START outside BUSY clears the per-load state and keeps the committed image and both banks. -/
def Obligations.StartBeginsLoad : Prop :=
  ∀ (s : State), s.busy = false →
    exec .start s = .next { s with
      phase := .fhdr, hoff := 0, line := 0, col := 0, kb := 0, padcnt := 0
      hdr := Vector.replicate 54 0, pxb := 0, pxg := 0, pxr := 0, npix := 0, err := .none }

/-- R92: START while BUSY changes nothing. -/
def Obligations.StartWhileBusyIsIgnored : Prop :=
  ∀ (s : State), s.busy = true → exec .start s = .next s

/-- R93, R94: an end of stream fails as an open, or completes the load in the last row's padding where FINAL_PAD_OPTIONAL
allows it, or fails as a read. -/
def Obligations.EndOfStreamFailsOrCommits : Prop :=
  ∀ (s : State), s.busy = true →
    (s.phase = .fhdr → s.hoff = 0 → exec .eos s = exec (.fail .openFailed) s ∧
      ∃ t, exec .eos s = .next t ∧ t.busy = false ∧ t.failed = true ∧ t.err = .openFailed) ∧
    (s.Inv → s.cfg.finalPadOptional = true → s.phase = .pad → s.line.toNat + 1 = s.h →
      exec .eos s = exec .finalize { s with padcnt := 0 } ∧
      exec .eos s = .next { s with
        padcnt := 0, active := !s.active, imgW := s.width, imgH := s.height, imgLen := s.npix, imgValid := true
        phase := .done }) ∧
    (¬(s.phase = .fhdr ∧ s.hoff = 0) →
      ¬(s.cfg.finalPadOptional = true ∧ s.phase = .pad ∧ s.line.toNat + 1 = s.h) →
      exec .eos s = exec (.fail .io) s ∧
      ∃ t, exec .eos s = .next t ∧ t.busy = false ∧ t.failed = true ∧ t.err = .io)

/-- R95: the operation of a BYTE, by PHASE; it is the operation the decoder names. Outside BUSY no BYTE or EOS is accepted
and no state changes. -/
def Obligations.ByteRunsOperationSelectedByPhase : Prop :=
  ∀ (s : State) (b : Byte),
    (s.phase = .fhdr ∨ s.phase = .ihdr → exec (.byte b) s = exec (.hcap b) s) ∧
    (s.phase = .pix → exec (.byte b) s = if s.bpp = 24 then exec (.pix24 b) s else exec (.pix32 b) s) ∧
    (s.phase = .pad → exec (.byte b) s = exec (.padskip b) s) ∧
    (s.busy = true → exec (.byte b) s = exec (streamOp s.selector b) s) ∧
    (s.busy = false → exec (.byte b) s = .next s ∧ exec .eos s = .next s)

/-- In every state that meets the invariant, every well-formed operation that can be presented completes. -/
def Obligations.EveryPresentableOperationCompletes : Prop :=
  ∀ (s : State) (i : Instr), s.Inv → i.wf s.cfg.sz = true → i.format ≠ .internal → ∃ t, exec i s = .next t

/-! ### Header capture -/

/-- R96: HCAP at every header offset. -/
def Obligations.HeaderCaptureStep : Prop :=
  ∀ (s : State) (b : Byte), s.phase = .fhdr ∨ s.phase = .ihdr → s.hoff.toNat ≤ 53 →
    (s.hoff ≠ 1 → s.hoff ≠ 13 → s.hoff ≠ 53 →
      exec (.hcap b) s = .next { s with hdr := s.hdr.setIfInBounds s.hoff.toNat b, hoff := s.hoff + 1 }) ∧
    (s.hoff = 13 →
      exec (.hcap b) s = .next { s with hdr := s.hdr.setIfInBounds 13 b, hoff := 14, phase := .ihdr }) ∧
    (s.hoff = 1 → s.hdrAt 0 = 0x42 → b = 0x4D →
      exec (.hcap b) s = .next { s with hdr := s.hdr.setIfInBounds 1 b, hoff := 2 }) ∧
    (s.hoff = 1 → ¬(s.hdrAt 0 = 0x42 ∧ b = 0x4D) →
      exec (.hcap b) s = exec (.fail .signature) { s with hdr := s.hdr.setIfInBounds 1 b }) ∧
    (s.hoff = 53 → ∀ c, c = { s with hdr := s.hdr.setIfInBounds 53 b } →
      (exec .validate c = .next c → exec (.hcap b) s = exec .alloc c) ∧
      (exec .validate c ≠ .next c → exec (.hcap b) s = exec .validate c))

/-- Each of the sixteen field captures, at each of its offsets but the three where more happens (1, 13, 53), stores the byte
and advances HOFF, and nothing else changes. -/
def Obligations.FieldCaptureStoresByte : Prop :=
  ∀ (s : State) (b : Byte) (i : Instr),
    i ∈ ([.fhSig b, .fhFsize b, .fhRsv1 b, .fhRsv2 b, .fhOffbits b, .ihSize b, .ihWidth b, .ihHeight b, .ihPlanes b,
      .ihBpp b, .ihCompr b, .ihImgsize b, .ihXppm b, .ihYppm b, .ihClrused b, .ihClrimp b] : List Instr) →
    i.selectedAt s.selector = true → s.hoff ≠ 1 → s.hoff ≠ 13 → s.hoff ≠ 53 →
    exec i s = .next { s with hdr := s.hdr.setIfInBounds s.hoff.toNat b, hoff := s.hoff + 1 }

/-- FH_SIG at offset 1 judges the signature: a good one goes on, a bad one fails with both bytes kept and HOFF at 1, and no
further byte is accepted. -/
def Obligations.SignatureJudgedAtSecondByte : Prop :=
  ∀ (s : State) (b : Byte), s.phase = .fhdr → s.hoff = 1 →
    (s.hdrAt 0 = 0x42 → b = 0x4D →
      exec (.fhSig b) s = .next { s with hdr := s.hdr.setIfInBounds 1 b, hoff := 2 }) ∧
    (¬(s.hdrAt 0 = 0x42 ∧ b = 0x4D) → ∃ t, exec (.fhSig b) s = .next t ∧
      t.phase = .failed ∧ t.err = .signature ∧ t.hoff = 1 ∧ t.hdrAt 1 = b ∧ (∀ j, j ≠ 1 → t.hdrAt j = s.hdrAt j) ∧
      ∀ c, exec (.byte c) t = .next t)

/-- FH_OFFBITS at offset 13 completes the file header. -/
def Obligations.OffbitsLastByteEntersInfoHeader : Prop :=
  ∀ (s : State) (b : Byte), s.phase = .fhdr → s.hoff = 13 →
    exec (.fhOffbits b) s = .next { s with hdr := s.hdr.setIfInBounds 13 b, hoff := 14, phase := .ihdr }

/-- IH_CLRIMP at offset 53 judges and sizes the whole header with the byte captured, first match wins. -/
def Obligations.LastHeaderByteJudgesInOrder : Prop :=
  ∀ (s c : State) (b : Byte), s.phase = .ihdr → s.hoff = 53 → c = { s with hdr := s.hdr.setIfInBounds 53 b } →
    exec (.ihClrimp b) s =
      if c.w = 0 ∨ c.h = 0 then exec (.fail .zeroDim) c
      else if c.bpp ≠ 24 ∧ c.bpp ≠ 32 then exec (.fail .bpp) c
      else if c.compr ≠ 0 then exec (.fail .compression) c
      else if 2 ^ c.cfg.sz ≤ c.w * c.h then exec (.fail .overflow) c
      else if c.cfg.cap < c.w * c.h then exec (.fail .capacity) c
      else .next { c with npix := c.w * c.h, line := 0, col := 0, kb := 0, padcnt := 0, phase := .pix }

/-- Outside the positions the sequencer selects it at, a stream operation does nothing; and PIX32, which the dispatcher
selects in PIX at every BPP but 24, does nothing where BPP is not 32 either (both the model's choice, log 10). -/
def Obligations.UnselectedStreamOperationDoesNothing : Prop :=
  (∀ (s : State) (i : Instr),
    i.format = .fileHeader ∨ i.format = .infoHeader ∨ i.format = .pixel24 ∨ i.format = .pixel32 ∨ i.format = .row →
    i.selectedAt s.selector = false → exec i s = .next s) ∧
  (∀ (s : State) (b : Byte), s.phase = .pix → s.bpp ≠ 24 → s.bpp ≠ 32 →
    Instr.selectedAt (.pix32 b) s.selector = true ∧ exec (.pix32 b) s = .next s)

/-! ### The parts of a step -/

/-- SIGCHK compares the first captured byte and the byte being captured with "BM", exactly. -/
def Obligations.SigchkComparesBothBytes : Prop :=
  ∀ (s : State) (b : Byte),
    (s.hdrAt 0 = 0x42 → b = 0x4D → exec (.sigchk b) s = .next s) ∧
    (s.hdrAt 0 ≠ 0x42 ∨ b ≠ 0x4D → exec (.sigchk b) s = exec (.fail .signature) s) ∧
    (s.sig = 0x4D42 ↔ s.hdrAt 0 = 0x42 ∧ s.hdrAt 1 = 0x4D)

/-- R141: VALIDATE's three tests in order; on failure BUSY is 0, FAILED is 1 and the committed image is as it was. -/
def Obligations.ValidateTestsInOrder : Prop :=
  ∀ (s : State),
    (exec .validate s =
      if s.width = 0 ∨ s.height = 0 then exec (.fail .zeroDim) s
      else if s.bpp ≠ 24 ∧ s.bpp ≠ 32 then exec (.fail .bpp) s
      else if s.compr ≠ 0 then exec (.fail .compression) s
      else .next s) ∧
    (exec .validate s = .next s ↔ s.width ≠ 0 ∧ s.height ≠ 0 ∧ (s.bpp = 24 ∨ s.bpp = 32) ∧ s.compr = 0) ∧
    ∀ t, exec .validate s = .next t → t = s ∨ (t.busy = false ∧ t.failed = true ∧ State.sameImage s t)

/-- R143: `mul_size` is the exact product or nothing. -/
def Obligations.MulSizeIsExactOrNothing : Prop :=
  ∀ (p : Config.Params) (w h n : Nat), w < 2 ^ p.sz → h < 2 ^ p.sz →
    (mulSize p.maxsz w h = some n ↔ n = w * h ∧ w * h < 2 ^ p.sz) ∧
    (mulSize p.maxsz w h = none ↔ 2 ^ p.sz ≤ w * h) ∧
    (0 < w → 0 < h → (p.maxsz / h < w ↔ p.maxsz < w * h)) ∧
    mulSize p.maxsz w h = mulSize p.maxsz h w ∧
    mulSize p.maxsz 0 h = some 0 ∧ mulSize p.maxsz w 0 = some 0 ∧
    (64 ≤ p.sz → w < 2 ^ 32 → h < 2 ^ 32 → mulSize p.maxsz w h ≠ none)

/-- R144: ALLOC enters PIX with the exact product, or fails on overflow, then on capacity. -/
def Obligations.AllocSizesTheImage : Prop :=
  ∀ (s : State),
    (exec .alloc s =
      if mulSize s.cfg.maxsz s.w s.h = none then exec (.fail .overflow) s
      else if s.cfg.cap < s.w * s.h then exec (.fail .capacity) s
      else .next { s with npix := s.w * s.h, line := 0, col := 0, kb := 0, padcnt := 0, phase := .pix }) ∧
    (mulSize s.cfg.maxsz s.w s.h = none ↔ 2 ^ s.cfg.sz ≤ s.w * s.h) ∧
    ∀ t, exec .alloc s = .next t →
      (t.phase = .pix ∧ t.npix = s.w * s.h) ∨ (t.busy = false ∧ t.failed = true ∧ t.npix = s.npix)

/-- ROWCHK rejects a depth outside [3,4] or a buffer too short for the row, and never does in the scanline loop. -/
def Obligations.RowGuardNeverFires : Prop :=
  ∀ (s : State),
    (exec .rowchk s =
      if s.bytesPerPixel < 3 ∨ s.bytesPerPixel > 4 ∨ s.npix < (s.h - 1 - s.line.toNat) * s.w + s.w then
        exec (.fail .state) s
      else .next s) ∧
    (s.Inv → s.phase = .pix ∨ s.phase = .pad → exec .rowchk s = .next s)

/-- PIXDONE stores one word `{a, b, g, r}` at `(H - 1 - LINE) * W + COL` of the work bank, leaves every other word of both
banks, and advances the sequencer. -/
def Obligations.PixdoneStoresOneWordAndAdvances : Prop :=
  ∀ (s : State) (r g bl a : Byte), s.Inv → s.phase = .pix →
    ∃ t, exec (.pixdone r g bl a) s = .next t ∧
      (s.h - 1 - s.line.toNat) * s.w + s.col.toNat < s.npix ∧
      (t.bank (!s.active)).find ((s.h - 1 - s.line.toNat) * s.w + s.col.toNat) = some (a ++ bl ++ g ++ r) ∧
      (∀ c, c ≠ (s.h - 1 - s.line.toNat) * s.w + s.col.toNat →
        (t.bank (!s.active)).find c = (s.bank (!s.active)).find c ∧
        (t.bank (!s.active)).read c = (s.bank (!s.active)).read c) ∧
      t.bank s.active = s.bank s.active ∧
      (s.col.toNat + 1 < s.w →
        t = { s with kb := 0, col := s.col + 1, pix0 := t.pix0, pix1 := t.pix1 }) ∧
      (s.col.toNat + 1 = s.w → 0 < s.padlen →
        t = { s with kb := 0, col := 0, phase := .pad, padcnt := 0, pix0 := t.pix0, pix1 := t.pix1 }) ∧
      (s.col.toNat + 1 = s.w → s.padlen = 0 → s.line.toNat + 1 < s.h →
        t = { s with kb := 0, col := 0, line := s.line + 1, pix0 := t.pix0, pix1 := t.pix1 }) ∧
      (s.col.toNat + 1 = s.w → s.padlen = 0 → s.line.toNat + 1 = s.h →
        t = { s with
          kb := 0, col := 0, active := !s.active, imgW := s.width, imgH := s.height, imgLen := s.npix
          imgValid := true, phase := .done, pix0 := t.pix0, pix1 := t.pix1 })

/-- R172: ROWEND goes to the next file row, or finalizes after row `H - 1`. -/
def Obligations.RowendAdvancesOrFinalizes : Prop :=
  ∀ (s : State),
    (s.line.toNat + 1 < s.h → exec .rowend s = .next { s with line := s.line + 1, phase := .pix }) ∧
    (s.line.toNat + 1 < s.h → (s.line + 1).toNat = s.line.toNat + 1) ∧
    (s.h ≤ s.line.toNat + 1 → exec .rowend s = exec .finalize s)

/-- FINALIZE commits the new image whole if it is valid, and fails otherwise; in the scanline loop it is valid. -/
def Obligations.FinalizeCommitsTheImage : Prop :=
  ∀ (s : State),
    (0 < s.npix → s.w * s.h < 2 ^ s.cfg.sz → s.w * s.h ≤ s.npix → exec .finalize s = .next { s with
      active := !s.active, imgW := s.width, imgH := s.height, imgLen := s.npix, imgValid := true, phase := .done }) ∧
    (¬(0 < s.npix ∧ s.w * s.h < 2 ^ s.cfg.sz ∧ s.w * s.h ≤ s.npix) → exec .finalize s = exec (.fail .state) s) ∧
    (s.Inv → s.phase = .pix ∨ s.phase = .pad → 0 < s.npix ∧ s.w * s.h < 2 ^ s.cfg.sz ∧ s.w * s.h ≤ s.npix)

/-- R193: failure entry writes PHASE and ERR, makes every word of the work bank unspecified, and changes nothing else; a
failing header capture keeps its byte and drops every other write; nothing more of the stream is taken. -/
def Obligations.FailureEntryKeepsAllButCause : Prop :=
  (∀ (s : State) (e : ErrCode), ∃ t, exec (.fail e) s = .next t ∧
    t = { s with phase := .failed, err := e, pix0 := t.pix0, pix1 := t.pix1, free := s.free + 1 } ∧
    t.bank s.active = s.bank s.active ∧ (∀ a, (t.bank (!s.active)).find a = none) ∧
    exec .eos t = .next t ∧ ∀ c, exec (.byte c) t = .next t) ∧
  (∀ (s t : State) (b : Byte), s.phase = .fhdr ∨ s.phase = .ihdr → s.hoff.toNat ≤ 53 → exec (.hcap b) s = .next t →
    t.phase = .failed →
    t = { s with
      phase := .failed, err := t.err, hdr := s.hdr.setIfInBounds s.hoff.toNat b, pix0 := t.pix0, pix1 := t.pix1
      free := s.free + 1 } ∧
    t.bank s.active = s.bank s.active)

/-- A pixel index that is no word of the store faults by name, and no state that meets the invariant reaches it (the
model's choice, log 8). -/
def Obligations.PixelIndexBeyondStoreFaults : Prop :=
  ∀ (s : State) (r g bl a : Byte) (n : Nat),
    (s.cfg.cap ≤ (s.h - 1 - s.line.toNat) * s.w + s.col.toNat →
      exec (.pixdone r g bl a) s = .fault (.noSuchPixel ((s.h - 1 - s.line.toNat) * s.w + s.col.toNat))) ∧
    (s.imgValid = true → n < s.imgLen → s.cfg.cap ≤ n → exec (.rdpix n) s = .fault (.noSuchPixel n)) ∧
    (s.Inv → s.phase = .pix → (s.h - 1 - s.line.toNat) * s.w + s.col.toNat < s.cfg.cap) ∧
    (s.Inv → s.imgValid = true → n < s.imgLen → n < s.cfg.cap)

/-! ### The scanline loop -/

/-- The bytes of a 24-bit pixel: blue and green are held, red completes the pixel with alpha 0 (R167). -/
def Obligations.Pix24TakesBytesByRole : Prop :=
  ∀ (s : State) (b : Byte), s.Inv → s.phase = .pix → s.bpp = 24 →
    (s.kb = 0 → exec (.pix24 b) s = .next { s with pxb := b, kb := 1 }) ∧
    (s.kb = 1 → exec (.pix24 b) s = .next { s with pxg := b, kb := 2 }) ∧
    (s.kb = 2 → exec (.pix24 b) s = exec (.pixdone b s.pxg s.pxb 0x00) s ∧ ∃ t, exec (.pix24 b) s = .next t ∧
      (t.bank (!s.active)).find ((s.h - 1 - s.line.toNat) * s.w + s.col.toNat) = some (0x00#8 ++ s.pxb ++ s.pxg ++ b)) ∧
    s.kb ≠ 3

/-- The bytes of a 32-bit pixel: blue, green and red are held, alpha completes the pixel and is stored as read. -/
def Obligations.Pix32TakesBytesByRole : Prop :=
  ∀ (s : State) (b : Byte), s.Inv → s.phase = .pix → s.bpp = 32 →
    (s.kb = 0 → exec (.pix32 b) s = .next { s with pxb := b, kb := 1 }) ∧
    (s.kb = 1 → exec (.pix32 b) s = .next { s with pxg := b, kb := 2 }) ∧
    (s.kb = 2 → exec (.pix32 b) s = .next { s with pxr := b, kb := 3 }) ∧
    (s.kb = 3 → exec (.pix32 b) s = exec (.pixdone s.pxr s.pxg s.pxb b) s ∧ ∃ t, exec (.pix32 b) s = .next t ∧
      (t.bank (!s.active)).find ((s.h - 1 - s.line.toNat) * s.w + s.col.toNat) = some (b ++ s.pxb ++ s.pxg ++ s.pxr))

/-- R171: a padding byte is dropped whatever its value, and the last one ends the row. -/
def Obligations.PadskipDropsByte : Prop :=
  ∀ (s : State) (b : Byte), s.Inv → s.phase = .pad →
    (s.padcnt.toNat + 1 < s.padlen → exec (.padskip b) s = .next { s with padcnt := s.padcnt + 1 }) ∧
    (s.padcnt.toNat + 1 = s.padlen → s.line.toNat + 1 < s.h →
      exec (.padskip b) s = .next { s with padcnt := 0, line := s.line + 1, phase := .pix }) ∧
    (s.padcnt.toNat + 1 = s.padlen → s.line.toNat + 1 = s.h →
      exec (.padskip b) s = .next { s with
        padcnt := 0, active := !s.active, imgW := s.width, imgH := s.height, imgLen := s.npix, imgValid := true
        phase := .done }) ∧
    ∀ c, exec (.padskip c) s = exec (.padskip b) s

/-- R170: PADLEN, its table, and its equality with the document's formula in naturals and in every wrapping word of at
least two bits. -/
def Obligations.PaddingIsTheLeastToAMultipleOfFour : Prop :=
  (∀ (s : State), s.padlen = padding s.w (if s.cfg.legacyPad = true then 3 else s.bytesPerPixel)) ∧
  (∀ w bp, padding w bp = (4 - (((w % 4) * bp) % 4)) % 4) ∧
  (∀ w, padding w 3 = w % 4 ∧ padding w 4 = 0) ∧ (∀ w bp, padding w bp = padding (w % 4) bp) ∧
  (∀ w bp, (w * bp + padding w bp) % 4 = 0 ∧ ∀ p, (w * bp + p) % 4 = 0 → padding w bp ≤ p) ∧
  (∀ w bp, padding w bp = (w * bp + 3) / 4 * 4 - w * bp) ∧
  (∀ n w bp, 2 ≤ n → BitVec.ofNat n (padding w bp) =
    ((BitVec.ofNat n (w * bp) + 3#n) &&& ~~~3#n) - BitVec.ofNat n (w * bp))

/-! ### Host reads -/

/-- R26, R99: the register table; nothing of the block's state changes, and the answer fits the SZ wires of the port. -/
def Obligations.RegisterReadTable : Prop :=
  ∀ (s : State),
    let answers (n : BitVec 6) (v : Nat) : Prop :=
      exec (.rdreg n) s = .next { s with port := { s.port with regRdata := v } }
    let bit (c : Bool) : Nat := if c then 1 else 0
    answers 0x00 (s.phase.code.toNat + 2 ^ 3 * bit s.busy + 2 ^ 4 * bit s.done + 2 ^ 5 * bit s.failed
      + 2 ^ 6 * bit s.imgValid + 2 ^ 7 * bit s.active + 2 ^ 8 * s.err.code.toNat) ∧
    answers 0x01 s.imgW.toNat ∧ answers 0x02 s.imgH.toNat ∧ answers 0x03 s.imgLen ∧ answers 0x04 s.npix ∧
    answers 0x05 s.line.toNat ∧ answers 0x06 s.col.toNat ∧
    answers 0x07 (s.hoff.toNat + 2 ^ 6 * s.kb.toNat + 2 ^ 8 * s.padcnt.toNat) ∧
    (∀ (n : BitVec 6) (o : Nat), (n, o) ∈ ([(0x10, 0), (0x12, 6), (0x13, 8), (0x18, 26), (0x19, 28)] :
        List (BitVec 6 × Nat)) →
      answers n ((s.hdrAt o).toNat + 2 ^ 8 * (s.hdrAt (o + 1)).toNat)) ∧
    (∀ (n : BitVec 6) (o : Nat), (n, o) ∈ ([(0x11, 2), (0x14, 10), (0x15, 14), (0x16, 18), (0x17, 22), (0x1A, 30),
        (0x1B, 34), (0x1C, 38), (0x1D, 42), (0x1E, 46), (0x1F, 50)] : List (BitVec 6 × Nat)) →
      answers n ((s.hdrAt o).toNat + 2 ^ 8 * (s.hdrAt (o + 1)).toNat + 2 ^ 16 * (s.hdrAt (o + 2)).toNat
        + 2 ^ 24 * (s.hdrAt (o + 3)).toNat)) ∧
    (∀ n : BitVec 6, (8 ≤ n.toNat ∧ n.toNat ≤ 15) ∨ 32 ≤ n.toNat → answers n 0) ∧
    (s.Inv → ∀ n, ∃ t, exec (.rdreg n) s = .next t ∧ t.port.regRdata < 2 ^ s.cfg.sz)

/-- R176: the bounds-checked pixel read, and the two-dimensional view of it; nothing of the block's state changes. -/
def Obligations.PixelReadIsBoundsChecked : Prop :=
  ∀ (s : State) (a : Nat), s.imgLen ≤ s.cfg.cap →
    (s.imgValid = true → a < s.imgLen →
      exec (.rdpix a) s = .next { s with port := { s.port with rdOk := true, rdData := (s.bank s.active).read a } }) ∧
    (s.imgValid = false ∨ s.imgLen ≤ a →
      exec (.rdpix a) s = .next { s with port := { s.port with rdOk := false, rdData := 0 } }) ∧
    (∀ x y, s.Inv → s.imgValid = true → x < s.imgW.toNat → y < s.imgH.toNat →
      s.pixel x y = some ((s.bank s.active).read (y * s.imgW.toNat + x)))

/-- Every pixel the host can read is one a load wrote: no reading of it rests on a free value. -/
def Obligations.ReadablePixelsAreSpecified : Prop :=
  ∀ (s : State) (a : Nat), s.Inv → s.rdOk a = true → ∃ p, s.committed.find a = some p ∧ s.rdData a = p

/-- The output ports are combinational: each is a function of the state and the read addresses, and what a read event
answers is what the ports show (R40, R43). -/
def Obligations.OutputPortsShowTheState : Prop :=
  ∀ (s t : State) (a : Nat) (n : BitVec 6),
    (s.outputs a n).inReady = s.busy ∧ (s.outputs a n).busy = s.busy ∧ (s.outputs a n).done = (s.phase == .done) ∧
    (s.outputs a n).failed = (s.phase == .failed) ∧ (s.outputs a n).err = s.err.code ∧
    (s.outputs a n).imgValid = s.imgValid ∧ (s.outputs a n).imgWidth = s.imgW ∧ (s.outputs a n).imgHeight = s.imgH ∧
    (exec (.rdpix a) s = .next t → t.port.rdOk = (s.outputs a n).rdOk ∧ t.port.rdData = (s.outputs a n).rdData ∧
      State.sameBlock s t) ∧
    (exec (.rdreg n) s = .next t → t.port.regRdata = (s.outputs a n).regRdata ∧ State.sameBlock s t)

/-! ### The whole machine -/

/-- The reset state meets the invariant, at every legal choice of parameters. -/
def Obligations.ResetMeetsTheInvariant : Prop :=
  ∀ (cfg : Config.Params), cfg.wf = true → (State.resetFor cfg).Inv

/-- Every step keeps the invariant. -/
def Obligations.EveryStepKeepsTheInvariant : Prop :=
  ∀ (s t : State), s.Inv → step s = .next t → t.Inv

/-- What R30 says of every state reached from reset, whatever is presented: a corollary of the step lemma
`EveryStepKeepsTheInvariant` and of `ResetMeetsTheInvariant`. -/
def Obligations.ReachableStatesAreAsR30Says : Prop :=
  ∀ (s : State), Reachable s →
    s.phase.code ≠ 7 ∧
    (s.phase = .fhdr → s.hoff.toNat ≤ 13) ∧ (s.phase = .ihdr → 14 ≤ s.hoff.toNat ∧ s.hoff.toNat ≤ 53) ∧
    (s.phase = .pix ∨ s.phase = .pad → 1 ≤ s.w ∧ 1 ≤ s.h ∧ (s.bpp = 24 ∨ s.bpp = 32) ∧ s.compr = 0 ∧
      s.sig = 0x4D42 ∧ s.npix = s.w * s.h ∧ s.npix ≤ s.cfg.cap ∧ s.line.toNat < s.h) ∧
    (s.phase = .pix → s.col.toNat < s.w ∧ s.kb.toNat < s.bytesPerPixel ∧ s.padcnt = 0) ∧
    (s.phase = .pad → 1 ≤ s.padlen ∧ s.padcnt.toNat < s.padlen ∧ s.col = 0 ∧ s.kb = 0) ∧
    (s.err.code ≠ 0 ↔ s.phase = .failed) ∧
    (s.imgValid = true → s.imgLen = s.imgW.toNat * s.imgH.toNat ∧ 1 ≤ s.imgLen ∧ s.imgLen ≤ s.cfg.cap) ∧
    (s.phase = .done → s.imgValid = true ∧ s.imgW = s.width ∧ s.imgH = s.height ∧ s.imgLen = s.npix)

/-- PHASE changes only along the pairs of R97, each under its condition and, for a failure, with a code of its row. That each
pair does move PHASE is `EveryListedPairMovesPhase`. -/
def Obligations.PhaseChangesOnlyAsListed : Prop :=
  ∀ (s t : State) (x : Input) (rest : List Input), s.Inv → s.inbox = x :: rest → step s = .next t →
    t.phase ≠ s.phase → ∃ i, decode s.selector x = .ok i ∧
    ((i = .reset ∧ t.phase = .idle) ∨
     (i = .start ∧ (s.phase = .idle ∨ s.phase = .done ∨ s.phase = .failed) ∧ t.phase = .fhdr) ∨
     (s.phase = .fhdr ∧ (∃ b, i = .fhSig b ∧ ¬(s.hdrAt 0 = 0x42 ∧ b = 0x4D)) ∧ s.hoff = 1 ∧ t.phase = .failed ∧
       t.err = .signature) ∨
     (s.phase = .fhdr ∧ (∃ b, i = .fhOffbits b) ∧ s.hoff = 13 ∧ t.phase = .ihdr) ∨
     (s.phase = .fhdr ∧ i = .eos ∧ s.hoff = 0 ∧ t.phase = .failed ∧ t.err = .openFailed) ∨
     (s.phase = .fhdr ∧ i = .eos ∧ s.hoff ≠ 0 ∧ t.phase = .failed ∧ t.err = .io) ∨
     (s.phase = .ihdr ∧ (∃ b, i = .ihClrimp b ∧ ¬(s.setHdr 53 b).headerValid) ∧ s.hoff = 53 ∧ t.phase = .failed ∧
       (t.err = .zeroDim ∨ t.err = .bpp ∨ t.err = .compression)) ∨
     (s.phase = .ihdr ∧ (∃ b, i = .ihClrimp b ∧ (s.setHdr 53 b).headerValid ∧ ¬(s.setHdr 53 b).sizeFits) ∧
       s.hoff = 53 ∧ t.phase = .failed ∧ (t.err = .overflow ∨ t.err = .capacity)) ∨
     (s.phase = .ihdr ∧ (∃ b, i = .ihClrimp b ∧ (s.setHdr 53 b).headerValid ∧ (s.setHdr 53 b).sizeFits) ∧
       s.hoff = 53 ∧ t.phase = .pix) ∨
     (s.phase = .ihdr ∧ i = .eos ∧ t.phase = .failed ∧ t.err = .io) ∨
     (s.phase = .pix ∧ (∃ b, i = .pix24 b ∨ i = .pix32 b) ∧ s.col.toNat + 1 = s.w ∧
       s.kb.toNat + 1 = s.bytesPerPixel ∧ 0 < s.padlen ∧ t.phase = .pad) ∨
     (s.phase = .pix ∧ (∃ b, i = .pix24 b ∨ i = .pix32 b) ∧ s.col.toNat + 1 = s.w ∧
       s.kb.toNat + 1 = s.bytesPerPixel ∧ s.padlen = 0 ∧ s.line.toNat + 1 = s.h ∧ t.phase = .done) ∨
     (s.phase = .pix ∧ i = .eos ∧ t.phase = .failed ∧ t.err = .io) ∨
     (s.phase = .pad ∧ (∃ b, i = .padskip b) ∧ s.padcnt.toNat + 1 = s.padlen ∧ s.line.toNat + 1 < s.h ∧
       t.phase = .pix) ∨
     (s.phase = .pad ∧ (∃ b, i = .padskip b) ∧ s.padcnt.toNat + 1 = s.padlen ∧ s.line.toNat + 1 = s.h ∧
       t.phase = .done) ∨
     (s.phase = .pad ∧ i = .eos ∧ s.cfg.finalPadOptional = true ∧ s.line.toNat + 1 = s.h ∧ t.phase = .done) ∨
     (s.phase = .pad ∧ i = .eos ∧ ¬(s.cfg.finalPadOptional = true ∧ s.line.toNat + 1 = s.h) ∧ t.phase = .failed ∧
       t.err = .io))

/-- The committed image, descriptor and bank, changes only in the step that enters DONE from a load and by RESET. -/
def Obligations.CommittedImageChangesOnlyByCommitOrReset : Prop :=
  ∀ (s t : State) (x : Input) (rest : List Input), s.inbox = x :: rest → step s = .next t →
    decode s.selector x ≠ .ok .reset → ¬(s.busy = true ∧ t.phase = .done) →
    State.sameImage s t ∧ ∀ a, t.rdOk a = s.rdOk a ∧ t.rdData a = s.rdData a

/-- No operation writes the parameters. -/
def Obligations.ParametersNeverChange : Prop :=
  ∀ (i : Instr) (s t : State), exec i s = .next t → t.cfg = s.cfg

/-- No operation reads or writes what the environment has yet to present. -/
def Obligations.PendingInputsDoNotMatter : Prop :=
  ∀ (i : Instr) (s : State) (xs : List Input),
    exec i { s with inbox := xs } = mapNext (fun t => { t with inbox := xs }) (exec i s)

/-- R197: in FAILED, and likewise in IDLE and DONE, nothing but RESET and START changes the block, and START begins a new
load. -/
def Obligations.OnlyStartOrResetLeavesFailed : Prop :=
  ∀ (s : State), s.phase = .failed ∨ s.phase = .done ∨ s.phase = .idle →
    (∀ t x rest, s.inbox = x :: rest → step s = .next t → decode s.selector x ≠ .ok .reset →
      decode s.selector x ≠ .ok .start → State.sameBlock s t) ∧
    (∃ t, exec .start s = .next t ∧ t.phase = .fhdr ∧ t.err = .none ∧ ∀ j, t.hdrAt j = 0) ∧
    (∃ t, exec .reset s = .next t ∧ t.phase = .idle)

/-- The value of a byte of an unchecked field changes only its own capture register. -/
def Obligations.UncheckedByteValueHasNoEffect : Prop :=
  ∀ (s : State) (b c : Byte), s.phase = .fhdr ∨ s.phase = .ihdr → uncheckedOffset s.hoff.toNat = true →
    exec (.byte c) s = mapNext (fun t => t.setHdr s.hoff.toNat c) (exec (.byte b) s)

/-- A captured byte of an unchecked field is read by no later stream operation. -/
def Obligations.UncheckedFieldIsNeverUsed : Prop :=
  ∀ (s : State) (i : Instr) (j : Nat) (v : Byte), uncheckedOffset j = true → s.hoff.toNat ≠ j ∨ s.inRows →
    i = .eos ∨ (∃ b, i = .byte b) → exec i (s.setHdr j v) = mapNext (fun t => t.setHdr j v) (exec i s)

/-! ### Whole loads -/

/-- Presenting a load through `step`, one input at a time, is the load. The model's choices in it: the environment is the
list `inbox` (log 1), and an element that carries no event, such as a beat after the load has ended, is taken from it like any
other (log 3), so that nothing is left to present at the end. In R41 and R226 the source holds such beats and the block does
not drain them; an environment that holds one presents it again as a later element. -/
def Obligations.StepsOfALoadAreTheLoad : Prop :=
  ∀ (s : State) (f : List Byte), s.Inv → s.busy = false →
    Host.Core.run Sys2Proof.core (f.length + 2) { s with inbox := loadInputs f } =
      mapNext (fun t => { t with inbox := [] }) (load f s)

/-- Every load of a finite stream ends in DONE or FAILED. -/
def Obligations.EveryLoadEnds : Prop :=
  ∀ (s : State) (f : List Byte), s.Inv → s.busy = false →
    ∃ t, load f s = .next t ∧ (t.phase = .done ∨ t.phase = .failed) ∧ t.Inv

/-- What a successful load leaves: the picture of the stream, bottom row first in the file and top row first in the store,
whatever the depth and the padding parameter. -/
def Obligations.GoodLoadLeavesThePicture : Prop :=
  ∀ (s : State) (f : List Byte), s.Inv → s.busy = false → HeaderLegal s.cfg f → need s.cfg f ≤ f.length →
    ∃ t, load f s = .next t ∧ t.phase = .done ∧ t.imgValid = true ∧ t.imgW.toNat = fileW f ∧ t.imgH.toNat = fileH f ∧
      t.imgLen = fileW f * fileH f ∧
      ∀ x y, x < fileW f → y < fileH f → t.pixel x y = some (filePixel s.cfg f x y)

/-- A good load consumes exactly NEED bytes, and a longer stream loads as its first NEED bytes do. -/
def Obligations.GoodLoadConsumesExactlyNeed : Prop :=
  ∀ (s : State) (f : List Byte), s.Inv → s.busy = false → HeaderLegal s.cfg f → need s.cfg f ≤ f.length →
    (∃ u, exec .start s = .next u ∧ consumed f u = need s.cfg f) ∧ load f s = load (f.take (need s.cfg f)) s

/-- A stream with a legal header that ends before NEED bytes fails with ERR_IO (with FINAL_PAD_OPTIONAL false). -/
def Obligations.ShortStreamFailsWithIo : Prop :=
  ∀ (s : State) (f : List Byte), s.Inv → s.busy = false → s.cfg.finalPadOptional = false → HeaderLegal s.cfg f →
    f.length < need s.cfg f →
    ∃ t, load f s = .next t ∧ t.phase = .failed ∧ t.err = .io ∧ t.npix = fileW f * fileH f

/-- A stream that does not begin "BM" fails on its second byte, and nothing further is consumed. -/
def Obligations.BadSignatureConsumesTwoBytes : Prop :=
  ∀ (s : State) (f : List Byte), s.Inv → s.busy = false → 2 ≤ f.length → ¬(byteAt f 0 = 0x42 ∧ byteAt f 1 = 0x4D) →
    ∃ u t, exec .start s = .next u ∧ consumed f u = 2 ∧ load f s = .next t ∧ t.phase = .failed ∧ t.err = .signature ∧
      t.hdrAt 0 = byteAt f 0 ∧ t.hdrAt 1 = byteAt f 1 ∧ (∀ j, 2 ≤ j → t.hdrAt j = 0) ∧ t.hoff = 1

/-- A stream with a whole header and a good signature is judged on its 54th byte, by the first test that fails. -/
def Obligations.IllegalHeaderFailsOnItsLastByte : Prop :=
  ∀ (s : State) (f : List Byte), s.Inv → s.busy = false → 54 ≤ f.length → byteAt f 0 = 0x42 → byteAt f 1 = 0x4D →
    ¬HeaderLegal s.cfg f →
    ∃ u t, exec .start s = .next u ∧ consumed f u = 54 ∧ load f s = .next t ∧ t.phase = .failed ∧ t.hoff = 53 ∧
      t.npix = 0 ∧ (∀ j, j < 54 → t.hdrAt j = byteAt f j) ∧
      t.err = if fileW f = 0 ∨ fileH f = 0 then .zeroDim
        else if fileLe16 f 28 ≠ 24 ∧ fileLe16 f 28 ≠ 32 then .bpp
        else if fileLe32 f 30 ≠ 0 then .compression
        else if 2 ^ s.cfg.sz ≤ fileW f * fileH f then .overflow
        else .capacity

/-- A failed load leaves the previously committed image as it was, pixel for pixel. -/
def Obligations.FailedLoadLeavesTheImage : Prop :=
  ∀ (s t : State) (f : List Byte), load f s = .next t → t.phase = .failed →
    State.sameImage s t ∧ ∀ a, t.rdOk a = s.rdOk a ∧ t.rdData a = s.rdData a

/-! ### The rest of the transition relation, and streams that end early -/

/-- Each pair of R97, under its condition: the input moves PHASE to the pair's target, ERR to its code (0 where the target is
not FAILED), and in the two pairs from row to row LINE to the next row. -/
def Obligations.EveryListedPairMovesPhase : Prop :=
  ∀ (s : State) (rest : List Input), s.Inv →
    let moves (x : Input) (p : Phase) (e : ErrCode) : Prop :=
      ∃ t, step { s with inbox := x :: rest } = .next t ∧ t.phase = p ∧ t.err = e
    let nextRow (x : Input) : Prop :=
      ∃ t, step { s with inbox := x :: rest } = .next t ∧ t.phase = .pix ∧ t.err = .none ∧ t.line = s.line + 1
    let byte (b : Byte) : Input := .edge (.beat b)
    let eos : Input := .edge .eosBeat
    moves (.edge .resetEdge) .idle .none ∧
    (s.phase = .idle ∨ s.phase = .done ∨ s.phase = .failed → moves (.edge .startEdge) .fhdr .none) ∧
    (s.phase = .fhdr → s.hoff = 1 → ∀ b, ¬(s.hdrAt 0 = 0x42 ∧ b = 0x4D) → moves (byte b) .failed .signature) ∧
    (s.phase = .fhdr → s.hoff = 13 → ∀ b, moves (byte b) .ihdr .none) ∧
    (s.phase = .fhdr → s.hoff = 0 → moves eos .failed .openFailed) ∧
    (s.phase = .fhdr → s.hoff ≠ 0 → moves eos .failed .io) ∧
    (s.phase = .ihdr → s.hoff = 53 → ∀ b,
      (¬(s.setHdr 53 b).headerValid → ∃ e ∈ [ErrCode.zeroDim, .bpp, .compression], moves (byte b) .failed e) ∧
      ((s.setHdr 53 b).headerValid → ¬(s.setHdr 53 b).sizeFits →
        ∃ e ∈ [ErrCode.overflow, .capacity], moves (byte b) .failed e) ∧
      ((s.setHdr 53 b).headerValid → (s.setHdr 53 b).sizeFits → moves (byte b) .pix .none)) ∧
    (s.phase = .ihdr → moves eos .failed .io) ∧
    (s.phase = .pix → s.col.toNat + 1 = s.w → s.kb.toNat + 1 = s.bytesPerPixel → ∀ b,
      (0 < s.padlen → moves (byte b) .pad .none) ∧
      (s.padlen = 0 → s.line.toNat + 1 < s.h → nextRow (byte b)) ∧
      (s.padlen = 0 → s.line.toNat + 1 = s.h → moves (byte b) .done .none)) ∧
    (s.phase = .pix → moves eos .failed .io) ∧
    (s.phase = .pad → s.padcnt.toNat + 1 = s.padlen → ∀ b,
      (s.line.toNat + 1 < s.h → nextRow (byte b)) ∧ (s.line.toNat + 1 = s.h → moves (byte b) .done .none)) ∧
    (s.phase = .pad → s.cfg.finalPadOptional = true → s.line.toNat + 1 = s.h → moves eos .done .none) ∧
    (s.phase = .pad → ¬(s.cfg.finalPadOptional = true ∧ s.line.toNat + 1 = s.h) → moves eos .failed .io)

/-- With FINAL_PAD_OPTIONAL, a stream with a legal header that ends inside the last row's padding is a whole load, and one
that ends before it fails with ERR_IO. -/
def Obligations.ShortStreamWithOptionalFinalPadding : Prop :=
  ∀ (s : State) (f : List Byte), s.Inv → s.busy = false → s.cfg.finalPadOptional = true → HeaderLegal s.cfg f →
    f.length < need s.cfg f →
    (need s.cfg f ≤ f.length + filePadlen s.cfg f →
      ∃ t, load f s = .next t ∧ t.phase = .done ∧ t.imgValid = true ∧ t.imgW.toNat = fileW f ∧ t.imgH.toNat = fileH f ∧
        t.imgLen = fileW f * fileH f ∧
        ∀ x y, x < fileW f → y < fileH f → t.pixel x y = some (filePixel s.cfg f x y)) ∧
    (f.length + filePadlen s.cfg f < need s.cfg f →
      ∃ t, load f s = .next t ∧ t.phase = .failed ∧ t.err = .io ∧ t.npix = fileW f * fileH f)

/-- A stream that ends inside its header, with nothing wrong in what there is of it: an empty one fails as an open, any other
as a read, with every byte it has captured and HOFF at the byte that is missing. -/
def Obligations.StreamShorterThanHeaderFails : Prop :=
  ∀ (s : State) (f : List Byte), s.Inv → s.busy = false → f.length < 54 →
    f.length ≤ 1 ∨ (byteAt f 0 = 0x42 ∧ byteAt f 1 = 0x4D) →
    ∃ t, load f s = .next t ∧ t.phase = .failed ∧ t.err = (if f.length = 0 then .openFailed else .io) ∧
      t.hoff.toNat = f.length ∧ t.npix = 0 ∧ (∀ j, j < f.length → t.hdrAt j = byteAt f j) ∧
      ∀ j, f.length ≤ j → t.hdrAt j = 0
end

