-- ==== Sys2Proof/Laws/Decode.lean ====
section
/-! SUPPORT. The decoder's range tables as case splits, and what it sees of the state. -/

namespace Sys2Proof

/-- The file header's operation, by offset (R60, R74). -/
theorem fileHeaderOp_cases (h : Nat) (b : Byte) : (h ≤ 1 ∧ fileHeaderOp h b = .fhSig b) ∨
    (2 ≤ h ∧ h ≤ 5 ∧ fileHeaderOp h b = .fhFsize b) ∨ (6 ≤ h ∧ h ≤ 7 ∧ fileHeaderOp h b = .fhRsv1 b)
    ∨ (8 ≤ h ∧ h ≤ 9 ∧ fileHeaderOp h b = .fhRsv2 b) ∨ (10 ≤ h ∧ h ≤ 13 ∧ fileHeaderOp h b = .fhOffbits b) ∨
    (14 ≤ h ∧ fileHeaderOp h b = .byte b) := by
  unfold fileHeaderOp
  by_cases h1 : h ≤ 1
  · rw [if_pos h1]; exact .inl ⟨h1, rfl⟩
  rw [if_neg h1]
  by_cases h2 : h ≤ 5
  · rw [if_pos h2]; exact .inr (.inl ⟨by omega, by omega, rfl⟩)
  rw [if_neg h2]
  by_cases h3 : h ≤ 7
  · rw [if_pos h3]; exact .inr (.inr (.inl ⟨by omega, by omega, rfl⟩))
  rw [if_neg h3]
  by_cases h4 : h ≤ 9
  · rw [if_pos h4]; exact .inr (.inr (.inr (.inl ⟨by omega, by omega, rfl⟩)))
  rw [if_neg h4]
  by_cases h5 : h ≤ 13
  · rw [if_pos h5]; exact .inr (.inr (.inr (.inr (.inl ⟨by omega, by omega, rfl⟩))))
  rw [if_neg h5]; exact .inr (.inr (.inr (.inr (.inr ⟨by omega, rfl⟩))))

/-- The info header's operation, by offset (R61, R74). -/
theorem infoHeaderOp_cases (h : Nat) (b : Byte) : (h ≤ 13 ∧ infoHeaderOp h b = .byte b) ∨
    (14 ≤ h ∧ h ≤ 17 ∧ infoHeaderOp h b = .ihSize b) ∨ (18 ≤ h ∧ h ≤ 21 ∧ infoHeaderOp h b = .ihWidth b)
    ∨ (22 ≤ h ∧ h ≤ 25 ∧ infoHeaderOp h b = .ihHeight b) ∨ (26 ≤ h ∧ h ≤ 27 ∧ infoHeaderOp h b = .ihPlanes b) ∨
    (28 ≤ h ∧ h ≤ 29 ∧ infoHeaderOp h b = .ihBpp b)
    ∨ (30 ≤ h ∧ h ≤ 33 ∧ infoHeaderOp h b = .ihCompr b) ∨ (34 ≤ h ∧ h ≤ 37 ∧ infoHeaderOp h b = .ihImgsize b) ∨
    (38 ≤ h ∧ h ≤ 41 ∧ infoHeaderOp h b = .ihXppm b)
    ∨ (42 ≤ h ∧ h ≤ 45 ∧ infoHeaderOp h b = .ihYppm b) ∨ (46 ≤ h ∧ h ≤ 49 ∧ infoHeaderOp h b = .ihClrused b) ∨
    (50 ≤ h ∧ h ≤ 53 ∧ infoHeaderOp h b = .ihClrimp b) ∨ (54 ≤ h ∧ infoHeaderOp h b = .byte b) := by
  unfold infoHeaderOp
  by_cases h1 : h ≤ 13
  · rw [if_pos h1]; exact .inl ⟨h1, rfl⟩
  rw [if_neg h1]; right
  by_cases h2 : h ≤ 17
  · rw [if_pos h2]; exact .inl ⟨by omega, by omega, rfl⟩
  rw [if_neg h2]; right
  by_cases h3 : h ≤ 21
  · rw [if_pos h3]; exact .inl ⟨by omega, by omega, rfl⟩
  rw [if_neg h3]; right
  by_cases h4 : h ≤ 25
  · rw [if_pos h4]; exact .inl ⟨by omega, by omega, rfl⟩
  rw [if_neg h4]; right
  by_cases h5 : h ≤ 27
  · rw [if_pos h5]; exact .inl ⟨by omega, by omega, rfl⟩
  rw [if_neg h5]; right
  by_cases h6 : h ≤ 29
  · rw [if_pos h6]; exact .inl ⟨by omega, by omega, rfl⟩
  rw [if_neg h6]; right
  by_cases h7 : h ≤ 33
  · rw [if_pos h7]; exact .inl ⟨by omega, by omega, rfl⟩
  rw [if_neg h7]; right
  by_cases h8 : h ≤ 37
  · rw [if_pos h8]; exact .inl ⟨by omega, by omega, rfl⟩
  rw [if_neg h8]; right
  by_cases h9 : h ≤ 41
  · rw [if_pos h9]; exact .inl ⟨by omega, by omega, rfl⟩
  rw [if_neg h9]; right
  by_cases h10 : h ≤ 45
  · rw [if_pos h10]; exact .inl ⟨by omega, by omega, rfl⟩
  rw [if_neg h10]; right
  by_cases h11 : h ≤ 49
  · rw [if_pos h11]; exact .inl ⟨by omega, by omega, rfl⟩
  rw [if_neg h11]; right
  by_cases h12 : h ≤ 53
  · rw [if_pos h12]; exact .inl ⟨by omega, by omega, rfl⟩
  rw [if_neg h12]; exact .inr ⟨by omega, rfl⟩

/-- Accepted means BUSY, by phase (R16). -/
theorem Phase.busy_iff (p : Phase) : p.busy = true ↔ p = .fhdr ∨ p = .ihdr ∨ p = .pix ∨ p = .pad := by
  cases p <;> simp [Phase.busy]

/-- An accepted data beat decodes to the stream operation of the position (R42, R74). -/
theorem decode_beat {sel : Selector} (b : Byte) (hb : sel.phase.busy = true) :
    decode sel (.edge (.beat b)) = .ok (streamOp sel b) := by
  simp [decode, decodeEvent, decodeEdge, Pins.beat, hb, Except.map, refine]

@[simp] theorem Machine.State.selector_phase (s : Machine.State) : s.selector.phase = s.phase := rfl
@[simp] theorem Machine.State.selector_hoff (s : Machine.State) : s.selector.hoff = s.hoff := rfl
@[simp] theorem Machine.State.selector_bpp (s : Machine.State) : s.selector.bpp = s.bpp := rfl
@[simp] theorem Machine.State.selector_sz (s : Machine.State) : s.selector.sz = s.cfg.sz := rfl

end Sys2Proof
end

