-- ==== Sys2Proof/Laws/State.lean ====
section
/-! SUPPORT. What each record update leaves of each field, so that no proof unfolds one. -/

namespace Sys2Proof.Machine

/-! ### setBank -/

@[simp] theorem State.setBank_cfg (s : State) (i : Bool) (b : Bank) : (s.setBank i b).cfg = s.cfg := by cases i <;> rfl
@[simp] theorem State.setBank_phase (s : State) (i : Bool) (b : Bank) : (s.setBank i b).phase = s.phase := by cases i <;> rfl
@[simp] theorem State.setBank_hoff (s : State) (i : Bool) (b : Bank) : (s.setBank i b).hoff = s.hoff := by cases i <;> rfl
@[simp] theorem State.setBank_line (s : State) (i : Bool) (b : Bank) : (s.setBank i b).line = s.line := by cases i <;> rfl
@[simp] theorem State.setBank_col (s : State) (i : Bool) (b : Bank) : (s.setBank i b).col = s.col := by cases i <;> rfl
@[simp] theorem State.setBank_kb (s : State) (i : Bool) (b : Bank) : (s.setBank i b).kb = s.kb := by cases i <;> rfl
@[simp] theorem State.setBank_padcnt (s : State) (i : Bool) (b : Bank) : (s.setBank i b).padcnt = s.padcnt := by cases i <;> rfl
@[simp] theorem State.setBank_hdr (s : State) (i : Bool) (b : Bank) : (s.setBank i b).hdr = s.hdr := by cases i <;> rfl
@[simp] theorem State.setBank_pxb (s : State) (i : Bool) (b : Bank) : (s.setBank i b).pxb = s.pxb := by cases i <;> rfl
@[simp] theorem State.setBank_pxg (s : State) (i : Bool) (b : Bank) : (s.setBank i b).pxg = s.pxg := by cases i <;> rfl
@[simp] theorem State.setBank_pxr (s : State) (i : Bool) (b : Bank) : (s.setBank i b).pxr = s.pxr := by cases i <;> rfl
@[simp] theorem State.setBank_npix (s : State) (i : Bool) (b : Bank) : (s.setBank i b).npix = s.npix := by cases i <;> rfl
@[simp] theorem State.setBank_err (s : State) (i : Bool) (b : Bank) : (s.setBank i b).err = s.err := by cases i <;> rfl
@[simp] theorem State.setBank_imgValid (s : State) (i : Bool) (b : Bank) : (s.setBank i b).imgValid = s.imgValid := by cases i <;> rfl
@[simp] theorem State.setBank_imgW (s : State) (i : Bool) (b : Bank) : (s.setBank i b).imgW = s.imgW := by cases i <;> rfl
@[simp] theorem State.setBank_imgH (s : State) (i : Bool) (b : Bank) : (s.setBank i b).imgH = s.imgH := by cases i <;> rfl
@[simp] theorem State.setBank_imgLen (s : State) (i : Bool) (b : Bank) : (s.setBank i b).imgLen = s.imgLen := by cases i <;> rfl
@[simp] theorem State.setBank_active (s : State) (i : Bool) (b : Bank) : (s.setBank i b).active = s.active := by cases i <;> rfl
@[simp] theorem State.setBank_port (s : State) (i : Bool) (b : Bank) : (s.setBank i b).port = s.port := by cases i <;> rfl
@[simp] theorem State.setBank_inbox (s : State) (i : Bool) (b : Bank) : (s.setBank i b).inbox = s.inbox := by cases i <;> rfl
@[simp] theorem State.setBank_free (s : State) (i : Bool) (b : Bank) : (s.setBank i b).free = s.free := by cases i <;> rfl

@[simp] theorem State.setBank_bank_same (s : State) (i : Bool) (b : Bank) : (s.setBank i b).bank i = b := by
  cases i <;> rfl

@[simp] theorem State.setBank_bank_not (s : State) (i : Bool) (b : Bank) : (s.setBank (!i) b).bank i = s.bank i := by
  cases i <;> rfl

@[simp] theorem State.setBank_committed (s : State) (b : Bank) : (s.setBank (!s.active) b).committed = s.committed := by
  simp only [State.committed, State.setBank_active, State.setBank_bank_not]

@[simp] theorem State.setBank_work (s : State) (b : Bank) : (s.setBank (!s.active) b).work = b := by
  simp only [State.work, State.setBank_active, State.setBank_bank_same]

/-! ### discardWork -/

@[simp] theorem State.discardWork_cfg (s : State) : (s.discardWork).cfg = s.cfg := s.setBank_cfg _ _
@[simp] theorem State.discardWork_phase (s : State) : (s.discardWork).phase = s.phase := s.setBank_phase _ _
@[simp] theorem State.discardWork_hoff (s : State) : (s.discardWork).hoff = s.hoff := s.setBank_hoff _ _
@[simp] theorem State.discardWork_line (s : State) : (s.discardWork).line = s.line := s.setBank_line _ _
@[simp] theorem State.discardWork_col (s : State) : (s.discardWork).col = s.col := s.setBank_col _ _
@[simp] theorem State.discardWork_kb (s : State) : (s.discardWork).kb = s.kb := s.setBank_kb _ _
@[simp] theorem State.discardWork_padcnt (s : State) : (s.discardWork).padcnt = s.padcnt := s.setBank_padcnt _ _
@[simp] theorem State.discardWork_hdr (s : State) : (s.discardWork).hdr = s.hdr := s.setBank_hdr _ _
@[simp] theorem State.discardWork_pxb (s : State) : (s.discardWork).pxb = s.pxb := s.setBank_pxb _ _
@[simp] theorem State.discardWork_pxg (s : State) : (s.discardWork).pxg = s.pxg := s.setBank_pxg _ _
@[simp] theorem State.discardWork_pxr (s : State) : (s.discardWork).pxr = s.pxr := s.setBank_pxr _ _
@[simp] theorem State.discardWork_npix (s : State) : (s.discardWork).npix = s.npix := s.setBank_npix _ _
@[simp] theorem State.discardWork_err (s : State) : (s.discardWork).err = s.err := s.setBank_err _ _
@[simp] theorem State.discardWork_imgValid (s : State) : (s.discardWork).imgValid = s.imgValid := s.setBank_imgValid _ _
@[simp] theorem State.discardWork_imgW (s : State) : (s.discardWork).imgW = s.imgW := s.setBank_imgW _ _
@[simp] theorem State.discardWork_imgH (s : State) : (s.discardWork).imgH = s.imgH := s.setBank_imgH _ _
@[simp] theorem State.discardWork_imgLen (s : State) : (s.discardWork).imgLen = s.imgLen := s.setBank_imgLen _ _
@[simp] theorem State.discardWork_active (s : State) : (s.discardWork).active = s.active := s.setBank_active _ _
@[simp] theorem State.discardWork_port (s : State) : (s.discardWork).port = s.port := s.setBank_port _ _
@[simp] theorem State.discardWork_inbox (s : State) : (s.discardWork).inbox = s.inbox := s.setBank_inbox _ _
@[simp] theorem State.discardWork_free (s : State) : (s.discardWork).free = s.free + 1 := rfl

@[simp] theorem State.discardWork_committed (s : State) : s.discardWork.committed = s.committed := s.setBank_committed _

@[simp] theorem State.discardWork_work (s : State) : s.discardWork.work = Bank.unspecified s.free := s.setBank_work _

/-! ### raiseFail -/

@[simp] theorem State.raiseFail_cfg (s : State) (e : ErrCode) : (s.raiseFail e).cfg = s.cfg := s.setBank_cfg _ _
@[simp] theorem State.raiseFail_phase (s : State) (e : ErrCode) : (s.raiseFail e).phase = .failed := rfl
@[simp] theorem State.raiseFail_hoff (s : State) (e : ErrCode) : (s.raiseFail e).hoff = s.hoff := s.setBank_hoff _ _
@[simp] theorem State.raiseFail_line (s : State) (e : ErrCode) : (s.raiseFail e).line = s.line := s.setBank_line _ _
@[simp] theorem State.raiseFail_col (s : State) (e : ErrCode) : (s.raiseFail e).col = s.col := s.setBank_col _ _
@[simp] theorem State.raiseFail_kb (s : State) (e : ErrCode) : (s.raiseFail e).kb = s.kb := s.setBank_kb _ _
@[simp] theorem State.raiseFail_padcnt (s : State) (e : ErrCode) : (s.raiseFail e).padcnt = s.padcnt := s.setBank_padcnt _ _
@[simp] theorem State.raiseFail_hdr (s : State) (e : ErrCode) : (s.raiseFail e).hdr = s.hdr := s.setBank_hdr _ _
@[simp] theorem State.raiseFail_pxb (s : State) (e : ErrCode) : (s.raiseFail e).pxb = s.pxb := s.setBank_pxb _ _
@[simp] theorem State.raiseFail_pxg (s : State) (e : ErrCode) : (s.raiseFail e).pxg = s.pxg := s.setBank_pxg _ _
@[simp] theorem State.raiseFail_pxr (s : State) (e : ErrCode) : (s.raiseFail e).pxr = s.pxr := s.setBank_pxr _ _
@[simp] theorem State.raiseFail_npix (s : State) (e : ErrCode) : (s.raiseFail e).npix = s.npix := s.setBank_npix _ _
@[simp] theorem State.raiseFail_err (s : State) (e : ErrCode) : (s.raiseFail e).err = e := rfl
@[simp] theorem State.raiseFail_imgValid (s : State) (e : ErrCode) : (s.raiseFail e).imgValid = s.imgValid := s.setBank_imgValid _ _
@[simp] theorem State.raiseFail_imgW (s : State) (e : ErrCode) : (s.raiseFail e).imgW = s.imgW := s.setBank_imgW _ _
@[simp] theorem State.raiseFail_imgH (s : State) (e : ErrCode) : (s.raiseFail e).imgH = s.imgH := s.setBank_imgH _ _
@[simp] theorem State.raiseFail_imgLen (s : State) (e : ErrCode) : (s.raiseFail e).imgLen = s.imgLen := s.setBank_imgLen _ _
@[simp] theorem State.raiseFail_active (s : State) (e : ErrCode) : (s.raiseFail e).active = s.active := s.setBank_active _ _
@[simp] theorem State.raiseFail_port (s : State) (e : ErrCode) : (s.raiseFail e).port = s.port := s.setBank_port _ _
@[simp] theorem State.raiseFail_inbox (s : State) (e : ErrCode) : (s.raiseFail e).inbox = s.inbox := s.setBank_inbox _ _
@[simp] theorem State.raiseFail_free (s : State) (e : ErrCode) : (s.raiseFail e).free = s.free + 1 := rfl

@[simp] theorem State.raiseFail_committed (s : State) (e : ErrCode) : (s.raiseFail e).committed = s.committed :=
  s.setBank_committed _

@[simp] theorem State.raiseFail_work (s : State) (e : ErrCode) : (s.raiseFail e).work = Bank.unspecified s.free :=
  s.setBank_work _

/-! ### beginLoad -/

@[simp] theorem State.beginLoad_cfg (s : State) : (s.beginLoad).cfg = s.cfg := rfl
@[simp] theorem State.beginLoad_phase (s : State) : (s.beginLoad).phase = .fhdr := rfl
@[simp] theorem State.beginLoad_hoff (s : State) : (s.beginLoad).hoff = 0 := rfl
@[simp] theorem State.beginLoad_line (s : State) : (s.beginLoad).line = 0 := rfl
@[simp] theorem State.beginLoad_col (s : State) : (s.beginLoad).col = 0 := rfl
@[simp] theorem State.beginLoad_kb (s : State) : (s.beginLoad).kb = 0 := rfl
@[simp] theorem State.beginLoad_padcnt (s : State) : (s.beginLoad).padcnt = 0 := rfl
@[simp] theorem State.beginLoad_hdr (s : State) : (s.beginLoad).hdr = Vector.replicate 54 0 := rfl
@[simp] theorem State.beginLoad_pxb (s : State) : (s.beginLoad).pxb = 0 := rfl
@[simp] theorem State.beginLoad_pxg (s : State) : (s.beginLoad).pxg = 0 := rfl
@[simp] theorem State.beginLoad_pxr (s : State) : (s.beginLoad).pxr = 0 := rfl
@[simp] theorem State.beginLoad_npix (s : State) : (s.beginLoad).npix = 0 := rfl
@[simp] theorem State.beginLoad_err (s : State) : (s.beginLoad).err = .none := rfl
@[simp] theorem State.beginLoad_imgValid (s : State) : (s.beginLoad).imgValid = s.imgValid := rfl
@[simp] theorem State.beginLoad_imgW (s : State) : (s.beginLoad).imgW = s.imgW := rfl
@[simp] theorem State.beginLoad_imgH (s : State) : (s.beginLoad).imgH = s.imgH := rfl
@[simp] theorem State.beginLoad_imgLen (s : State) : (s.beginLoad).imgLen = s.imgLen := rfl
@[simp] theorem State.beginLoad_active (s : State) : (s.beginLoad).active = s.active := rfl
@[simp] theorem State.beginLoad_pix0 (s : State) : (s.beginLoad).pix0 = s.pix0 := rfl
@[simp] theorem State.beginLoad_pix1 (s : State) : (s.beginLoad).pix1 = s.pix1 := rfl
@[simp] theorem State.beginLoad_port (s : State) : (s.beginLoad).port = s.port := rfl
@[simp] theorem State.beginLoad_inbox (s : State) : (s.beginLoad).inbox = s.inbox := rfl
@[simp] theorem State.beginLoad_free (s : State) : (s.beginLoad).free = s.free := rfl

/-! ### toReset -/

@[simp] theorem State.toReset_cfg (s : State) : (s.toReset).cfg = s.cfg := rfl
@[simp] theorem State.toReset_phase (s : State) : (s.toReset).phase = .idle := rfl
@[simp] theorem State.toReset_hoff (s : State) : (s.toReset).hoff = 0 := rfl
@[simp] theorem State.toReset_line (s : State) : (s.toReset).line = 0 := rfl
@[simp] theorem State.toReset_col (s : State) : (s.toReset).col = 0 := rfl
@[simp] theorem State.toReset_kb (s : State) : (s.toReset).kb = 0 := rfl
@[simp] theorem State.toReset_padcnt (s : State) : (s.toReset).padcnt = 0 := rfl
@[simp] theorem State.toReset_hdr (s : State) : (s.toReset).hdr = Vector.replicate 54 0 := rfl
@[simp] theorem State.toReset_pxb (s : State) : (s.toReset).pxb = 0 := rfl
@[simp] theorem State.toReset_pxg (s : State) : (s.toReset).pxg = 0 := rfl
@[simp] theorem State.toReset_pxr (s : State) : (s.toReset).pxr = 0 := rfl
@[simp] theorem State.toReset_npix (s : State) : (s.toReset).npix = 0 := rfl
@[simp] theorem State.toReset_err (s : State) : (s.toReset).err = .none := rfl
@[simp] theorem State.toReset_imgValid (s : State) : (s.toReset).imgValid = false := rfl
@[simp] theorem State.toReset_imgW (s : State) : (s.toReset).imgW = 0 := rfl
@[simp] theorem State.toReset_imgH (s : State) : (s.toReset).imgH = 0 := rfl
@[simp] theorem State.toReset_imgLen (s : State) : (s.toReset).imgLen = 0 := rfl
@[simp] theorem State.toReset_active (s : State) : (s.toReset).active = false := rfl
@[simp] theorem State.toReset_pix0 (s : State) : (s.toReset).pix0 = Bank.unspecified s.free := rfl
@[simp] theorem State.toReset_pix1 (s : State) : (s.toReset).pix1 = Bank.unspecified (s.free + 1) := rfl
@[simp] theorem State.toReset_port (s : State) : (s.toReset).port = s.port := rfl
@[simp] theorem State.toReset_inbox (s : State) : (s.toReset).inbox = s.inbox := rfl
@[simp] theorem State.toReset_free (s : State) : (s.toReset).free = s.free + 2 := rfl

/-! ### capture -/

@[simp] theorem State.capture_cfg (s : State) (b : Byte) : (s.capture b).cfg = s.cfg := rfl
@[simp] theorem State.capture_phase (s : State) (b : Byte) : (s.capture b).phase = s.phase := rfl
@[simp] theorem State.capture_hoff (s : State) (b : Byte) : (s.capture b).hoff = s.hoff := rfl
@[simp] theorem State.capture_line (s : State) (b : Byte) : (s.capture b).line = s.line := rfl
@[simp] theorem State.capture_col (s : State) (b : Byte) : (s.capture b).col = s.col := rfl
@[simp] theorem State.capture_kb (s : State) (b : Byte) : (s.capture b).kb = s.kb := rfl
@[simp] theorem State.capture_padcnt (s : State) (b : Byte) : (s.capture b).padcnt = s.padcnt := rfl
@[simp] theorem State.capture_hdr (s : State) (b : Byte) : (s.capture b).hdr = s.hdr.setIfInBounds s.hoff.toNat b := rfl
@[simp] theorem State.capture_pxb (s : State) (b : Byte) : (s.capture b).pxb = s.pxb := rfl
@[simp] theorem State.capture_pxg (s : State) (b : Byte) : (s.capture b).pxg = s.pxg := rfl
@[simp] theorem State.capture_pxr (s : State) (b : Byte) : (s.capture b).pxr = s.pxr := rfl
@[simp] theorem State.capture_npix (s : State) (b : Byte) : (s.capture b).npix = s.npix := rfl
@[simp] theorem State.capture_err (s : State) (b : Byte) : (s.capture b).err = s.err := rfl
@[simp] theorem State.capture_imgValid (s : State) (b : Byte) : (s.capture b).imgValid = s.imgValid := rfl
@[simp] theorem State.capture_imgW (s : State) (b : Byte) : (s.capture b).imgW = s.imgW := rfl
@[simp] theorem State.capture_imgH (s : State) (b : Byte) : (s.capture b).imgH = s.imgH := rfl
@[simp] theorem State.capture_imgLen (s : State) (b : Byte) : (s.capture b).imgLen = s.imgLen := rfl
@[simp] theorem State.capture_active (s : State) (b : Byte) : (s.capture b).active = s.active := rfl
@[simp] theorem State.capture_pix0 (s : State) (b : Byte) : (s.capture b).pix0 = s.pix0 := rfl
@[simp] theorem State.capture_pix1 (s : State) (b : Byte) : (s.capture b).pix1 = s.pix1 := rfl
@[simp] theorem State.capture_port (s : State) (b : Byte) : (s.capture b).port = s.port := rfl
@[simp] theorem State.capture_inbox (s : State) (b : Byte) : (s.capture b).inbox = s.inbox := rfl
@[simp] theorem State.capture_free (s : State) (b : Byte) : (s.capture b).free = s.free := rfl

end Sys2Proof.Machine
end

