-- ==== Sys2Proof/Laws/Memory.lean ====
section
/-! SUPPORT. The pixel store: a read after a write, the words a write leaves alone, and the canonical form, which every
operation on a bank keeps. -/

namespace Sys2Proof.Machine

theorem lookup_insertCell_same (a : Nat) (p : Pixel) (l : List (Nat × Pixel)) :
    lookup a (insertCell a p l) = some p := by
  induction l with
  | nil => simp [insertCell, lookup]
  | cons c rest ih =>
    obtain ⟨k, q⟩ := c
    simp only [insertCell]
    split
    · simp [lookup]
    · split
      · simp [lookup]
      · rename_i h
        simp [lookup, Ne.symm h, ih]

theorem lookup_insertCell_other {a c : Nat} (h : c ≠ a) (p : Pixel) (l : List (Nat × Pixel)) :
    lookup c (insertCell a p l) = lookup c l := by
  induction l with
  | nil => simp [insertCell, lookup, Ne.symm h]
  | cons x rest ih =>
    obtain ⟨k, q⟩ := x
    simp only [insertCell]
    split
    · simp [lookup, Ne.symm h]
    · split
      · rename_i hk
        simp [lookup, Ne.symm h, ← hk]
      · simp [lookup, ih]

theorem cellsFrom_insertCell {cap lo a : Nat} (hlo : lo ≤ a) (ha : a < cap) (p : Pixel) (l : List (Nat × Pixel))
    (h : cellsFrom cap lo l = true) : cellsFrom cap lo (insertCell a p l) = true := by
  induction l generalizing lo with
  | nil => simp [insertCell, cellsFrom, hlo, ha]
  | cons x rest ih =>
    obtain ⟨k, q⟩ := x
    simp only [cellsFrom, Bool.and_eq_true, decide_eq_true_eq] at h
    simp only [insertCell]
    split
    · simp only [cellsFrom, Bool.and_eq_true, decide_eq_true_eq]
      exact ⟨⟨hlo, ha⟩, ⟨by omega, h.1.2⟩, h.2⟩
    · split
      · subst a
        simp only [cellsFrom, Bool.and_eq_true, decide_eq_true_eq]
        exact h
      · simp only [cellsFrom, Bool.and_eq_true, decide_eq_true_eq]
        exact ⟨h.1, ih (by omega) h.2⟩

/-- A listed index lies inside the store. -/
theorem lookup_lt_cap {cap lo a : Nat} (l : List (Nat × Pixel)) (h : cellsFrom cap lo l = true)
    (hs : (lookup a l).isSome = true) : lo ≤ a ∧ a < cap := by
  induction l generalizing lo with
  | nil => simp [lookup] at hs
  | cons x rest ih =>
    obtain ⟨k, q⟩ := x
    simp only [cellsFrom, Bool.and_eq_true, decide_eq_true_eq] at h
    simp only [lookup] at hs
    split at hs
    · omega
    · have := ih h.2 hs
      omega

/-- Equal memories are equal data: canonical banks that read alike list the same words. -/
theorem cells_eq_of_lookup_eq {cap lo lo' : Nat} (l l' : List (Nat × Pixel)) (h : cellsFrom cap lo l = true)
    (h' : cellsFrom cap lo' l' = true) (hl : ∀ a, lookup a l = lookup a l') : l = l' := by
  induction l generalizing lo lo' l' with
  | nil =>
    cases l' with
    | nil => rfl
    | cons y ys => simpa [lookup] using hl y.1
  | cons x xs ih =>
    obtain ⟨k, q⟩ := x
    cases l' with
    | nil => simpa [lookup] using hl k
    | cons y ys =>
      obtain ⟨k', q'⟩ := y
      simp only [cellsFrom, Bool.and_eq_true, decide_eq_true_eq] at h h'
      have hk : k = k' := by
        rcases Nat.lt_trichotomy k k' with hlt | heq | hgt
        · have h1 := hl k
          simp only [lookup, if_true, if_neg (show k' ≠ k by omega)] at h1
          have := lookup_lt_cap ys h'.2 (a := k) (by rw [← h1]; rfl)
          omega
        · exact heq
        · have h1 := hl k'
          simp only [lookup, if_true, if_neg (show k ≠ k' by omega)] at h1
          have := lookup_lt_cap xs h.2 (a := k') (by rw [h1]; rfl)
          omega
      subst hk
      have hq : q = q' := by simpa [lookup] using hl k
      have hrest : ∀ a, lookup a xs = lookup a ys := by
        intro a
        by_cases ha : k = a
        · subst ha
          cases hx : lookup k xs with
          | some v => have := lookup_lt_cap xs h.2 (a := k) (by rw [hx]; rfl); omega
          | none =>
            cases hy : lookup k ys with
            | some v => have := lookup_lt_cap ys h'.2 (a := k) (by rw [hy]; rfl); omega
            | none => rfl
        · simpa [lookup, ha] using hl a
      rw [hq, ih ys h.2 h'.2 hrest]

@[simp] theorem Bank.find_put_same (b : Bank) (a : Nat) (p : Pixel) : (b.put a p).find a = some p :=
  lookup_insertCell_same a p b.cells

theorem Bank.find_put_other (b : Bank) {a c : Nat} (h : c ≠ a) (p : Pixel) : (b.put a p).find c = b.find c :=
  lookup_insertCell_other h p b.cells

/-- A write specifies its word and takes no other word's value away. -/
theorem Bank.isSome_find_put (b : Bank) (a c : Nat) (p : Pixel) (h : c = a ∨ (b.find c).isSome = true) :
    ((b.put a p).find c).isSome = true := by
  by_cases hc : c = a
  · subst hc
    simp
  · rw [Bank.find_put_other b hc]
    exact h.resolve_left hc

@[simp] theorem Bank.read_put_same (b : Bank) (a : Nat) (p : Pixel) : (b.put a p).read a = p := by
  simp [Bank.read]

theorem Bank.read_put_other (b : Bank) {a c : Nat} (h : c ≠ a) (p : Pixel) : (b.put a p).read c = b.read c := by
  simp only [Bank.read, Bank.find_put_other b h]
  rfl

theorem Bank.read_of_find {b : Bank} {a : Nat} {p : Pixel} (h : b.find a = some p) : b.read a = p := by
  simp [Bank.read, h]

@[simp] theorem Bank.find_unspecified (g a : Nat) : (Bank.unspecified g).find a = none := rfl

/-! ### Every operation on a bank keeps the canonical form -/

theorem Bank.put_wf {cap a : Nat} (b : Bank) (ha : a < cap) (p : Pixel) (h : b.wf cap = true) :
    (b.put a p).wf cap = true :=
  cellsFrom_insertCell (Nat.zero_le a) ha p b.cells h

@[simp] theorem Bank.unspecified_wf (cap g : Nat) : (Bank.unspecified g).wf cap = true := rfl

/-- Both banks are canonical. -/
abbrev State.banksWf (s : State) : Prop := s.pix0.wf s.cfg.cap = true ∧ s.pix1.wf s.cfg.cap = true

theorem State.banksWf_work {s : State} (h : s.banksWf) : s.work.wf s.cfg.cap = true := by
  cases hb : s.active <;> simp [State.work, State.bank, hb, h.1, h.2]

theorem State.setBank_banksWf {s : State} (h : s.banksWf) (i : Bool) {b : Bank} (hb : b.wf s.cfg.cap = true) :
    (s.setBank i b).banksWf := by
  cases i
  · exact ⟨hb, h.2⟩
  · exact ⟨h.1, hb⟩

theorem State.discardWork_banksWf {s : State} (h : s.banksWf) : s.discardWork.banksWf :=
  State.setBank_banksWf h _ (Bank.unspecified_wf _ _)

theorem State.raiseFail_banksWf {s : State} (h : s.banksWf) (e : ErrCode) : (s.raiseFail e).banksWf :=
  State.discardWork_banksWf h

theorem State.toReset_banksWf (s : State) : s.toReset.banksWf := ⟨rfl, rfl⟩

theorem State.resetFor_banksWf (cfg : Config.Params) : (State.resetFor cfg).banksWf := ⟨rfl, rfl⟩

/-- Everything PixWrite can do: one word of the work bank inside the store, or the fault. -/
theorem State.pixWrite_cases (s : State) (a : Nat) (p : Pixel) :
    (a < s.cfg.cap ∧ s.pixWrite a p = .ok (s.setBank (!s.active) (s.work.put a p))) ∨
      (s.cfg.cap ≤ a ∧ s.pixWrite a p = .fault (.noSuchPixel a)) := by
  by_cases h : a < s.cfg.cap
  · exact .inl ⟨h, by simp [State.pixWrite, h]⟩
  · exact .inr ⟨by omega, by simp [State.pixWrite, h]⟩

theorem State.pixWrite_banksWf {s t : State} {a : Nat} {p : Pixel} (h : s.banksWf) (ht : s.pixWrite a p = .ok t) :
    t.banksWf := by
  rcases s.pixWrite_cases a p with ⟨ha, hw⟩ | ⟨_, hw⟩ <;> rw [hw] at ht
  · cases ht
    exact State.setBank_banksWf h _ (Bank.put_wf _ ha p (State.banksWf_work h))
  · cases ht

end Sys2Proof.Machine
end

