-- ==== Sys2Proof/Laws/Views.lean ====
section
/-! SUPPORT. What the field views and the short names read after each update, and the capture array after a capture. -/

namespace Sys2Proof.Machine

@[simp] theorem State.setBank_hdrAt (s : State) (i : Bool) (b : Bank) (j : Nat) : (s.setBank i b).hdrAt j = s.hdrAt j := by
  simp [State.hdrAt]
@[simp] theorem State.setBank_le16 (s : State) (i : Bool) (b : Bank) (j : Nat) : (s.setBank i b).le16 j = s.le16 j := by
  simp [State.le16]
@[simp] theorem State.setBank_le32 (s : State) (i : Bool) (b : Bank) (j : Nat) : (s.setBank i b).le32 j = s.le32 j := by
  simp [State.le32]
@[simp] theorem State.setBank_sig (s : State) (i : Bool) (b : Bank) : (s.setBank i b).sig = s.sig := by
  cases i <;> rfl
@[simp] theorem State.setBank_fsize (s : State) (i : Bool) (b : Bank) : (s.setBank i b).fsize = s.fsize := by
  cases i <;> rfl
@[simp] theorem State.setBank_rsv1 (s : State) (i : Bool) (b : Bank) : (s.setBank i b).rsv1 = s.rsv1 := by
  cases i <;> rfl
@[simp] theorem State.setBank_rsv2 (s : State) (i : Bool) (b : Bank) : (s.setBank i b).rsv2 = s.rsv2 := by
  cases i <;> rfl
@[simp] theorem State.setBank_offbits (s : State) (i : Bool) (b : Bank) : (s.setBank i b).offbits = s.offbits := by
  cases i <;> rfl
@[simp] theorem State.setBank_ihsize (s : State) (i : Bool) (b : Bank) : (s.setBank i b).ihsize = s.ihsize := by
  cases i <;> rfl
@[simp] theorem State.setBank_width (s : State) (i : Bool) (b : Bank) : (s.setBank i b).width = s.width := by
  cases i <;> rfl
@[simp] theorem State.setBank_height (s : State) (i : Bool) (b : Bank) : (s.setBank i b).height = s.height := by
  cases i <;> rfl
@[simp] theorem State.setBank_planes (s : State) (i : Bool) (b : Bank) : (s.setBank i b).planes = s.planes := by
  cases i <;> rfl
@[simp] theorem State.setBank_bpp (s : State) (i : Bool) (b : Bank) : (s.setBank i b).bpp = s.bpp := by
  cases i <;> rfl
@[simp] theorem State.setBank_compr (s : State) (i : Bool) (b : Bank) : (s.setBank i b).compr = s.compr := by
  cases i <;> rfl
@[simp] theorem State.setBank_imgsize (s : State) (i : Bool) (b : Bank) : (s.setBank i b).imgsize = s.imgsize := by
  cases i <;> rfl
@[simp] theorem State.setBank_xppm (s : State) (i : Bool) (b : Bank) : (s.setBank i b).xppm = s.xppm := by
  cases i <;> rfl
@[simp] theorem State.setBank_yppm (s : State) (i : Bool) (b : Bank) : (s.setBank i b).yppm = s.yppm := by
  cases i <;> rfl
@[simp] theorem State.setBank_clrused (s : State) (i : Bool) (b : Bank) : (s.setBank i b).clrused = s.clrused := by
  cases i <;> rfl
@[simp] theorem State.setBank_clrimp (s : State) (i : Bool) (b : Bank) : (s.setBank i b).clrimp = s.clrimp := by
  cases i <;> rfl
@[simp] theorem State.setBank_w (s : State) (i : Bool) (b : Bank) : (s.setBank i b).w = s.w := by
  cases i <;> rfl
@[simp] theorem State.setBank_h (s : State) (i : Bool) (b : Bank) : (s.setBank i b).h = s.h := by
  cases i <;> rfl
@[simp] theorem State.setBank_bytesPerPixel (s : State) (i : Bool) (b : Bank) : (s.setBank i b).bytesPerPixel = s.bytesPerPixel := by
  cases i <;> rfl
@[simp] theorem State.setBank_padlen (s : State) (i : Bool) (b : Bank) : (s.setBank i b).padlen = s.padlen := by
  cases i <;> rfl
@[simp] theorem State.setBank_pixelAddr (s : State) (i : Bool) (b : Bank) : (s.setBank i b).pixelAddr = s.pixelAddr := by
  cases i <;> rfl
@[simp] theorem State.setBank_busy (s : State) (i : Bool) (b : Bank) : (s.setBank i b).busy = s.busy := by
  cases i <;> rfl
@[simp] theorem State.setBank_done (s : State) (i : Bool) (b : Bank) : (s.setBank i b).done = s.done := by
  cases i <;> rfl
@[simp] theorem State.setBank_failed (s : State) (i : Bool) (b : Bank) : (s.setBank i b).failed = s.failed := by
  cases i <;> rfl

@[simp] theorem State.raiseFail_sig (s : State) (e : ErrCode) : (s.raiseFail e).sig = s.sig :=
  s.setBank_sig _ _
@[simp] theorem State.raiseFail_fsize (s : State) (e : ErrCode) : (s.raiseFail e).fsize = s.fsize :=
  s.setBank_fsize _ _
@[simp] theorem State.raiseFail_rsv1 (s : State) (e : ErrCode) : (s.raiseFail e).rsv1 = s.rsv1 :=
  s.setBank_rsv1 _ _
@[simp] theorem State.raiseFail_rsv2 (s : State) (e : ErrCode) : (s.raiseFail e).rsv2 = s.rsv2 :=
  s.setBank_rsv2 _ _
@[simp] theorem State.raiseFail_offbits (s : State) (e : ErrCode) : (s.raiseFail e).offbits = s.offbits :=
  s.setBank_offbits _ _
@[simp] theorem State.raiseFail_ihsize (s : State) (e : ErrCode) : (s.raiseFail e).ihsize = s.ihsize :=
  s.setBank_ihsize _ _
@[simp] theorem State.raiseFail_width (s : State) (e : ErrCode) : (s.raiseFail e).width = s.width :=
  s.setBank_width _ _
@[simp] theorem State.raiseFail_height (s : State) (e : ErrCode) : (s.raiseFail e).height = s.height :=
  s.setBank_height _ _
@[simp] theorem State.raiseFail_planes (s : State) (e : ErrCode) : (s.raiseFail e).planes = s.planes :=
  s.setBank_planes _ _
@[simp] theorem State.raiseFail_bpp (s : State) (e : ErrCode) : (s.raiseFail e).bpp = s.bpp :=
  s.setBank_bpp _ _
@[simp] theorem State.raiseFail_compr (s : State) (e : ErrCode) : (s.raiseFail e).compr = s.compr :=
  s.setBank_compr _ _
@[simp] theorem State.raiseFail_imgsize (s : State) (e : ErrCode) : (s.raiseFail e).imgsize = s.imgsize :=
  s.setBank_imgsize _ _
@[simp] theorem State.raiseFail_xppm (s : State) (e : ErrCode) : (s.raiseFail e).xppm = s.xppm :=
  s.setBank_xppm _ _
@[simp] theorem State.raiseFail_yppm (s : State) (e : ErrCode) : (s.raiseFail e).yppm = s.yppm :=
  s.setBank_yppm _ _
@[simp] theorem State.raiseFail_clrused (s : State) (e : ErrCode) : (s.raiseFail e).clrused = s.clrused :=
  s.setBank_clrused _ _
@[simp] theorem State.raiseFail_clrimp (s : State) (e : ErrCode) : (s.raiseFail e).clrimp = s.clrimp :=
  s.setBank_clrimp _ _
@[simp] theorem State.raiseFail_w (s : State) (e : ErrCode) : (s.raiseFail e).w = s.w :=
  s.setBank_w _ _
@[simp] theorem State.raiseFail_h (s : State) (e : ErrCode) : (s.raiseFail e).h = s.h :=
  s.setBank_h _ _
@[simp] theorem State.raiseFail_bytesPerPixel (s : State) (e : ErrCode) : (s.raiseFail e).bytesPerPixel = s.bytesPerPixel :=
  s.setBank_bytesPerPixel _ _
@[simp] theorem State.raiseFail_padlen (s : State) (e : ErrCode) : (s.raiseFail e).padlen = s.padlen :=
  s.setBank_padlen _ _
@[simp] theorem State.raiseFail_pixelAddr (s : State) (e : ErrCode) : (s.raiseFail e).pixelAddr = s.pixelAddr :=
  s.setBank_pixelAddr _ _
@[simp] theorem State.raiseFail_hdrAt (s : State) (e : ErrCode) (j : Nat) : (s.raiseFail e).hdrAt j = s.hdrAt j :=
  s.setBank_hdrAt _ _ j

@[simp] theorem State.raiseFail_busy (s : State) (e : ErrCode) : (s.raiseFail e).busy = false := rfl

@[simp] theorem State.raiseFail_failed (s : State) (e : ErrCode) : (s.raiseFail e).failed = true := rfl

@[simp] theorem State.raiseFail_done (s : State) (e : ErrCode) : (s.raiseFail e).done = false := rfl

@[simp] theorem State.beginLoad_hdrAt (s : State) (j : Nat) : s.beginLoad.hdrAt j = 0 := by
  simp only [State.hdrAt, State.beginLoad_hdr, Vector.getElem?_replicate]
  split <;> rfl

@[simp] theorem State.toReset_hdrAt (s : State) (j : Nat) : s.toReset.hdrAt j = 0 := s.beginLoad_hdrAt j

theorem State.resetFor_hdrAt (cfg : Config.Params) (j : Nat) : (State.resetFor cfg).hdrAt j = 0 :=
  (State.resetFor cfg).beginLoad_hdrAt j

/-- The captured byte is `HDR[HOFF]` (R96). -/
theorem State.capture_hdrAt_same (s : State) (b : Byte) (h : s.hoff.toNat < 54) :
    (s.capture b).hdrAt s.hoff.toNat = b := by
  simp [State.hdrAt, h]

/-- A capture leaves every other byte (R96). -/
theorem State.capture_hdrAt_other (s : State) (b : Byte) {j : Nat} (h : j ≠ s.hoff.toNat) :
    (s.capture b).hdrAt j = s.hdrAt j := by
  simp [State.hdrAt, Ne.symm h]

/-- The signature view against its two bytes (R46, R64). -/
theorem State.sig_eq_iff (s : State) : s.sig = 0x4D42 ↔ s.hdrAt 0 = 0x42 ∧ s.hdrAt 1 = 0x4D := by
  simp only [State.sig, State.le16]
  generalize s.hdrAt 0 = x
  generalize s.hdrAt (0 + 1) = y
  constructor
  · intro h
    have hx : (y ++ x).extractLsb' 0 8 = (0x4D42 : BitVec 16).extractLsb' 0 8 := by rw [h]
    have hy : (y ++ x).extractLsb' 8 8 = (0x4D42 : BitVec 16).extractLsb' 8 8 := by rw [h]
    rw [BitVec.extractLsb'_append_eq_right] at hx
    rw [BitVec.extractLsb'_append_eq_left] at hy
    exact ⟨hx, hy⟩
  · rintro ⟨rfl, rfl⟩
    rfl

/-- A byte appended below a bit vector. -/
theorem toNat_append_byte {n : Nat} (x : BitVec n) (y : Byte) : (x ++ y).toNat = 2 ^ 8 * x.toNat + y.toNat := by
  rw [BitVec.toNat_append, Nat.shiftLeft_eq, Nat.mul_comm]
  exact (Nat.two_pow_add_eq_or_of_lt y.isLt _).symm

/-- The numeric value of a 2-byte field (R63). -/
theorem State.le16_toNat (s : State) (i : Nat) :
    (s.le16 i).toNat = (s.hdrAt i).toNat + 2 ^ 8 * (s.hdrAt (i + 1)).toNat := by
  simp only [State.le16, toNat_append_byte]
  omega

/-- The numeric value of a 4-byte field (R63). -/
theorem State.le32_toNat (s : State) (i : Nat) :
    (s.le32 i).toNat = (s.hdrAt i).toNat + 2 ^ 8 * (s.hdrAt (i + 1)).toNat + 2 ^ 16 * (s.hdrAt (i + 2)).toNat
      + 2 ^ 24 * (s.hdrAt (i + 3)).toNat := by
  simp only [State.le32, toNat_append_byte]
  omega

end Sys2Proof.Machine
end

