-- ==== Sys2Proof/Laws/Ops.lean ====
section
/-! SUPPORT. One lemma per shared operation: everything it can do. -/

namespace Sys2Proof.Machine

/-! ### Effects and the end of a step -/

@[simp] theorem Effect.bind_ok (s : State) (f : State → Effect) : (Effect.ok s).bind f = f s := rfl

@[simp] theorem Effect.bind_fail (e : ErrCode) (f : State → Effect) : (Effect.fail e).bind f = .fail e := rfl

@[simp] theorem Effect.bind_fault (r : Fault) (f : State → Effect) : (Effect.fault r).bind f = .fault r := rfl

@[simp] theorem settle_ok (s t : State) : settle s (.ok t) = .next t := rfl

@[simp] theorem settle_fail (s : State) (e : ErrCode) : settle s (.fail e) = .next (s.raiseFail e) := rfl

@[simp] theorem settle_fault (s : State) (r : Fault) : settle s (.fault r) = .fault r := rfl

theorem Effect.bind_eq_ok {e : Effect} {f : State → Effect} {t : State} (h : e.bind f = .ok t) :
    ∃ u, e = .ok u ∧ f u = .ok t := by
  cases e <;> simp_all

/-- A step that ends in a next state either made its writes or failed. -/
theorem settle_eq_next {base t : State} {e : Effect} (h : settle base e = .next t) :
    e = .ok t ∨ ∃ c, e = .fail c ∧ t = base.raiseFail c := by
  cases e with
  | ok u => simp_all
  | fail c => exact .inr ⟨c, rfl, by simpa using h.symm⟩
  | fault r => simp at h

theorem settle_ne_refused (base : State) (e : Effect) (r : Refusal) : settle base e ≠ .refused r := by
  cases e <;> simp

/-- Failure entry as one record update (R193). -/
theorem State.raiseFail_eq (s : State) (e : ErrCode) :
    s.raiseFail e = { s with
      phase := .failed, err := e, pix0 := (s.raiseFail e).pix0, pix1 := (s.raiseFail e).pix1, free := s.free + 1 } := by
  unfold State.raiseFail State.discardWork State.setBank
  split <;> rfl

/-- A bank write as one record update. -/
theorem State.setBank_eq (s : State) (i : Bool) (b : Bank) :
    s.setBank i b = { s with pix0 := (s.setBank i b).pix0, pix1 := (s.setBank i b).pix1 } := by
  cases i <;> rfl

/-! ### Header -/

theorem sigchk_cases (b : Byte) (s : State) :
    (s.hdrAt 0 = 0x42 ∧ b = 0x4D ∧ sigchk b s = .ok s) ∨
      (¬(s.hdrAt 0 = 0x42 ∧ b = 0x4D) ∧ sigchk b s = .fail .signature) := by
  by_cases h : s.hdrAt 0 = 0x42 ∧ b = 0x4D
  · exact .inl ⟨h.1, h.2, if_pos h⟩
  · exact .inr ⟨h, if_neg h⟩

/-- VALIDATE passes a state unchanged or names the first test of R142 that fails. -/
theorem validate_cases (s : State) :
    (s.width ≠ 0 ∧ s.height ≠ 0 ∧ (s.bpp = 24 ∨ s.bpp = 32) ∧ s.compr = 0 ∧ validate s = .ok s) ∨
      ∃ e, (e = .zeroDim ∨ e = .bpp ∨ e = .compression) ∧ validate s = .fail e := by
  unfold validate Config.biRgb
  split
  · exact .inr ⟨_, .inl rfl, rfl⟩
  · split
    · exact .inr ⟨_, .inr (.inl rfl), rfl⟩
    · split
      · exact .inr ⟨_, .inr (.inr rfl), rfl⟩
      · rename_i h1 h2 h3
        refine .inl ⟨fun h => h1 (.inl h), fun h => h1 (.inr h), ?_, by simpa using h3, rfl⟩
        by_cases h : s.bpp = 24
        · exact .inl h
        · exact .inr (Classical.not_not.mp fun h' => h2 ⟨h, h'⟩)

/-- ALLOC enters PIX with the product in NPIX, or fails on overflow or capacity. -/
theorem alloc_cases (s : State) :
    (∃ n, mulSize s.cfg.maxsz s.w s.h = some n ∧ n ≤ s.cfg.cap ∧
        alloc s = .ok { s with npix := n, line := 0, col := 0, kb := 0, padcnt := 0, phase := .pix }) ∨
      ∃ e, (e = .overflow ∨ e = .capacity) ∧ alloc s = .fail e := by
  unfold alloc
  split
  · exact .inr ⟨_, .inl rfl, rfl⟩
  · rename_i n hn
    split
    · exact .inr ⟨_, .inr rfl, rfl⟩
    · exact .inl ⟨n, hn, by omega, rfl⟩

/-- Where the product is not refused it is the product (the zero branch included). -/
theorem mulSize_some {maxsz w h n : Nat} (hm : mulSize maxsz w h = some n) : n = w * h := by
  unfold mulSize at hm
  split at hm
  · rename_i h0
    cases hm
    rcases h0 with rfl | rfl <;> simp
  · split at hm
    · cases hm
    · exact (Option.some.inj hm).symm

/-- `mul_size` by the size of the true product (R143). -/
theorem mulSize_eq (p : Config.Params) (w h : Nat) :
    mulSize p.maxsz w h = if 2 ^ p.sz ≤ w * h then none else some (w * h) := by
  have hp : 0 < 2 ^ p.sz := Nat.two_pow_pos p.sz
  unfold mulSize
  by_cases h0 : w = 0 ∨ h = 0
  · rw [if_pos h0, if_neg]
    · rcases h0 with rfl | rfl <;> simp
    · rcases h0 with rfl | rfl <;> simp
  · have hpos : 0 < h := by omega
    have hiff : p.maxsz / h < w ↔ 2 ^ p.sz ≤ w * h := by
      rw [Nat.div_lt_iff_lt_mul hpos]
      unfold Config.Params.maxsz
      omega
    rw [if_neg h0]
    simp only [hiff]

/-- What HCAP does after the capture, by HOFF (R96). -/
theorem afterCapture_cases (b : Byte) (s : State) :
    (s.hoff = 1 ∧ s.hdrAt 0 = 0x42 ∧ b = 0x4D ∧ afterCapture b s = .ok { s with hoff := s.hoff + 1 }) ∨
    (s.hoff = 1 ∧ afterCapture b s = .fail .signature) ∨
    (s.hoff = 13 ∧ afterCapture b s = .ok { s with phase := .ihdr, hoff := s.hoff + 1 }) ∨
    (s.hoff = 53 ∧ afterCapture b s = (validate s).bind alloc) ∨
    (s.hoff ≠ 1 ∧ s.hoff ≠ 13 ∧ s.hoff.toNat < 53 ∧ afterCapture b s = .ok { s with hoff := s.hoff + 1 }) ∨
    (53 < s.hoff.toNat ∧ afterCapture b s = .ok s) := by
  unfold afterCapture
  by_cases h1 : s.hoff = 1
  · rw [if_pos h1]
    rcases sigchk_cases b s with ⟨h0, hb, hs⟩ | ⟨_, hs⟩
    · exact .inl ⟨h1, h0, hb, by rw [hs]; rfl⟩
    · exact .inr (.inl ⟨h1, by rw [hs]; rfl⟩)
  · rw [if_neg h1]
    by_cases h13 : s.hoff = 13
    · exact .inr (.inr (.inl ⟨h13, if_pos h13⟩))
    · rw [if_neg h13]
      by_cases h53 : s.hoff = 53
      · exact .inr (.inr (.inr (.inl ⟨h53, if_pos h53⟩)))
      · rw [if_neg h53]
        have hne : s.hoff.toNat ≠ 53 := fun h => h53 (BitVec.eq_of_toNat_eq h)
        by_cases hlt : s.hoff.toNat < 53
        · exact .inr (.inr (.inr (.inr (.inl ⟨h1, h13, hlt, if_pos hlt⟩))))
        · exact .inr (.inr (.inr (.inr (.inr ⟨by omega, if_neg hlt⟩))))

/-! ### Scanline -/

theorem rowchk_cases (s : State) : rowchk s = .ok s ∨ rowchk s = .fail .state := by
  unfold rowchk
  split <;> simp

theorem rowchkAtStart_cases (s : State) : rowchkAtStart s = .ok s ∨ rowchkAtStart s = .fail .state := by
  unfold rowchkAtStart
  split
  · exact rowchk_cases s
  · exact .inl rfl

/-- FINALIZE commits the whole image at once or fails. -/
theorem finalize_cases (s : State) :
    (0 < s.npix ∧ finalize s = .ok { s with
        active := !s.active, imgW := s.width, imgH := s.height, imgLen := s.npix, imgValid := true, phase := .done }) ∨
      finalize s = .fail .state := by
  unfold finalize
  split
  · exact .inr rfl
  · split
    · rename_i h
      exact .inl ⟨h.1, rfl⟩
    · exact .inr rfl

/-- FINALIZE by the three conditions of `isValid()` (R174). -/
theorem finalize_eq (s : State) :
    finalize s =
      if 0 < s.npix ∧ s.w * s.h < 2 ^ s.cfg.sz ∧ s.w * s.h ≤ s.npix then
        .ok { s with
          active := !s.active, imgW := s.width, imgH := s.height, imgLen := s.npix, imgValid := true, phase := .done }
      else .fail .state := by
  unfold finalize
  rw [mulSize_eq]
  by_cases h : 2 ^ s.cfg.sz ≤ s.w * s.h
  · rw [if_pos h, if_neg]
    omega
  · rw [if_neg h]
    by_cases h2 : 0 < s.npix ∧ s.w * s.h ≤ s.npix
    · rw [if_pos ⟨h2.1, by omega, h2.2⟩]
      exact if_pos h2
    · rw [if_neg (by omega)]
      exact if_neg h2

theorem rowend_cases (s : State) :
    (s.line.toNat + 1 < s.h ∧ rowend s = .ok { s with line := s.line + 1, phase := .pix }) ∨
      (s.h ≤ s.line.toNat + 1 ∧ rowend s = finalize s) := by
  unfold rowend
  split
  · exact .inl ⟨by assumption, rfl⟩
  · exact .inr ⟨by omega, rfl⟩

theorem nextColumn_cases (s : State) :
    (s.col.toNat + 1 < s.w ∧ nextColumn s = .ok { s with kb := 0, col := s.col + 1 }) ∨
    (s.w ≤ s.col.toNat + 1 ∧ 0 < s.padlen ∧
      nextColumn s = .ok { s with kb := 0, col := 0, phase := .pad, padcnt := 0 }) ∨
    (s.w ≤ s.col.toNat + 1 ∧ s.padlen = 0 ∧ nextColumn s = rowend { s with kb := 0, col := 0 }) := by
  unfold nextColumn
  split
  · exact .inl ⟨by assumption, rfl⟩
  · split
    · exact .inr (.inl ⟨by omega, by assumption, rfl⟩)
    · exact .inr (.inr ⟨by omega, by omega, rfl⟩)

theorem padByte_cases (s : State) :
    (s.padcnt.toNat + 1 < s.padlen ∧ padByte s = .ok { s with padcnt := s.padcnt + 1 }) ∨
      (s.padlen ≤ s.padcnt.toNat + 1 ∧ padByte s = rowend { s with padcnt := 0 }) := by
  unfold padByte
  split
  · exact .inl ⟨by assumption, rfl⟩
  · exact .inr ⟨by omega, rfl⟩

/-- PIXDONE stores one word of the work bank inside the store, or faults. -/
theorem pixdone_cases (r g bl a : Byte) (s : State) :
    (s.pixelAddr < s.cfg.cap ∧
      pixdone r g bl a s = nextColumn (s.setBank (!s.active) (s.work.put s.pixelAddr (pixelWord r g bl a)))) ∨
    (s.cfg.cap ≤ s.pixelAddr ∧ pixdone r g bl a s = .fault (.noSuchPixel s.pixelAddr)) := by
  unfold pixdone
  rcases s.pixWrite_cases s.pixelAddr (pixelWord r g bl a) with ⟨h, hw⟩ | ⟨h, hw⟩ <;> rw [hw]
  · exact .inl ⟨h, rfl⟩
  · exact .inr ⟨h, rfl⟩

/-- The byte of a 24-bit pixel, by KB. -/
theorem pixel24Byte_cases (b : Byte) (s : State) :
    (s.kb = 0 ∧ pixel24Byte b s = .ok { s with pxb := b, kb := 1 }) ∨
    (s.kb = 1 ∧ pixel24Byte b s = .ok { s with pxg := b, kb := 2 }) ∨
    (s.kb = 2 ∧ pixel24Byte b s = pixdone b s.pxg s.pxb 0x00 s) ∨
    (s.kb = 3 ∧ pixel24Byte b s = .ok s) := by
  have h : s.kb = 0 ∨ s.kb = 1 ∨ s.kb = 2 ∨ s.kb = 3 := by
    generalize s.kb = k
    revert k
    decide
  rcases h with h | h | h | h <;> simp [pixel24Byte, h]

/-- The byte of a 32-bit pixel, by KB. -/
theorem pixel32Byte_cases (b : Byte) (s : State) :
    (s.kb = 0 ∧ pixel32Byte b s = .ok { s with pxb := b, kb := 1 }) ∨
    (s.kb = 1 ∧ pixel32Byte b s = .ok { s with pxg := b, kb := 2 }) ∨
    (s.kb = 2 ∧ pixel32Byte b s = .ok { s with pxr := b, kb := 3 }) ∨
    (s.kb = 3 ∧ pixel32Byte b s = pixdone s.pxr s.pxg s.pxb b s) := by
  have h : s.kb = 0 ∨ s.kb = 1 ∨ s.kb = 2 ∨ s.kb = 3 := by
    generalize s.kb = k
    revert k
    decide
  rcases h with h | h | h | h <;> simp [pixel32Byte, h]

/-! ### One step -/

/-- What a step that answers a next state did: it waited, took an input without an event, or ran the decoded operation. -/
theorem step_cases {s t : State} (h : step s = .next t) :
    s.cfg.wf = true ∧
      ((s.inbox = [] ∧ t = s) ∨
        ∃ x rest, s.inbox = x :: rest ∧
          ((∃ e, decode s.selector x = .error e ∧ t = { s with inbox := rest }) ∨
            ∃ i, decode s.selector x = .ok i ∧ exec i { s with inbox := rest } = .next t)) := by
  unfold step at h
  split at h
  · rename_i hw
    refine ⟨hw, ?_⟩
    split at h
    · rename_i hi
      exact .inl ⟨hi, by simpa using h.symm⟩
    · rename_i x rest hi
      refine .inr ⟨x, rest, hi, ?_⟩
      split at h
      · rename_i i hd
        exact .inr ⟨i, hd, h⟩
      · cases h
      all_goals
        rename_i hd
        exact .inl ⟨_, hd, by simpa using h.symm⟩
  · cases h

/-! ### Runs -/

/-- A run peels off its first step. -/
theorem run_succ (M : Host.Core) (k : Nat) (s : M.State) :
    M.run (k + 1) s =
      match M.step s with
      | .next t => M.run k t
      | .fault r => .fault r
      | .refused r => .refused r := rfl

/-- A run of this machine peels off its first step. -/
theorem core_run_succ (k : Nat) (s : State) :
    Host.Core.run Sys2Proof.core (k + 1) s = andThen (step s) (Host.Core.run Sys2Proof.core k) := by
  refine (run_succ Sys2Proof.core k s).trans ?_
  have e : step s = Sys2Proof.core.step s := rfl
  rw [e]
  cases Sys2Proof.core.step s <;> rfl

end Sys2Proof.Machine
end

