-- ==== Sys2Proof/Laws/PerInstr.lean ====
section
/-! SUPPORT. One lemma per operation about its format and its encoding (R83): exactly the internal operations have no input
that presents them, and no sequencer position selects one. -/

namespace Sys2Proof.Laws

/-- An operation has an encoding unless it is internal, and an internal one is selected nowhere. -/
def Encoding.Statement (i : Instr) : Prop :=
  ((encode i).isSome = true ↔ i.format ≠ .internal) ∧
    ∀ sel : Selector, i.format = .internal → i.selectedAt sel = false

theorem Encoding.reset : Encoding.Statement (.reset) := by
  simp [Encoding.Statement, encode, Instr.format, Instr.selectedAt]
theorem Encoding.start : Encoding.Statement (.start) := by
  simp [Encoding.Statement, encode, Instr.format, Instr.selectedAt]
theorem Encoding.eos : Encoding.Statement (.eos) := by
  simp [Encoding.Statement, encode, Instr.format, Instr.selectedAt]
theorem Encoding.byte (b : Byte) : Encoding.Statement (.byte b) := by
  simp [Encoding.Statement, encode, Instr.format, Instr.selectedAt]
theorem Encoding.rdreg (n : BitVec 6) : Encoding.Statement (.rdreg n) := by
  simp [Encoding.Statement, encode, Instr.format, Instr.selectedAt]
theorem Encoding.rdpix (a : Nat) : Encoding.Statement (.rdpix a) := by
  simp [Encoding.Statement, encode, Instr.format, Instr.selectedAt]
theorem Encoding.fhSig (b : Byte) : Encoding.Statement (.fhSig b) := by
  simp [Encoding.Statement, encode, Instr.format, Instr.selectedAt]
theorem Encoding.fhFsize (b : Byte) : Encoding.Statement (.fhFsize b) := by
  simp [Encoding.Statement, encode, Instr.format, Instr.selectedAt]
theorem Encoding.fhRsv1 (b : Byte) : Encoding.Statement (.fhRsv1 b) := by
  simp [Encoding.Statement, encode, Instr.format, Instr.selectedAt]
theorem Encoding.fhRsv2 (b : Byte) : Encoding.Statement (.fhRsv2 b) := by
  simp [Encoding.Statement, encode, Instr.format, Instr.selectedAt]
theorem Encoding.fhOffbits (b : Byte) : Encoding.Statement (.fhOffbits b) := by
  simp [Encoding.Statement, encode, Instr.format, Instr.selectedAt]
theorem Encoding.ihSize (b : Byte) : Encoding.Statement (.ihSize b) := by
  simp [Encoding.Statement, encode, Instr.format, Instr.selectedAt]
theorem Encoding.ihWidth (b : Byte) : Encoding.Statement (.ihWidth b) := by
  simp [Encoding.Statement, encode, Instr.format, Instr.selectedAt]
theorem Encoding.ihHeight (b : Byte) : Encoding.Statement (.ihHeight b) := by
  simp [Encoding.Statement, encode, Instr.format, Instr.selectedAt]
theorem Encoding.ihPlanes (b : Byte) : Encoding.Statement (.ihPlanes b) := by
  simp [Encoding.Statement, encode, Instr.format, Instr.selectedAt]
theorem Encoding.ihBpp (b : Byte) : Encoding.Statement (.ihBpp b) := by
  simp [Encoding.Statement, encode, Instr.format, Instr.selectedAt]
theorem Encoding.ihCompr (b : Byte) : Encoding.Statement (.ihCompr b) := by
  simp [Encoding.Statement, encode, Instr.format, Instr.selectedAt]
theorem Encoding.ihImgsize (b : Byte) : Encoding.Statement (.ihImgsize b) := by
  simp [Encoding.Statement, encode, Instr.format, Instr.selectedAt]
theorem Encoding.ihXppm (b : Byte) : Encoding.Statement (.ihXppm b) := by
  simp [Encoding.Statement, encode, Instr.format, Instr.selectedAt]
theorem Encoding.ihYppm (b : Byte) : Encoding.Statement (.ihYppm b) := by
  simp [Encoding.Statement, encode, Instr.format, Instr.selectedAt]
theorem Encoding.ihClrused (b : Byte) : Encoding.Statement (.ihClrused b) := by
  simp [Encoding.Statement, encode, Instr.format, Instr.selectedAt]
theorem Encoding.ihClrimp (b : Byte) : Encoding.Statement (.ihClrimp b) := by
  simp [Encoding.Statement, encode, Instr.format, Instr.selectedAt]
theorem Encoding.pix24 (b : Byte) : Encoding.Statement (.pix24 b) := by
  simp [Encoding.Statement, encode, Instr.format, Instr.selectedAt]
theorem Encoding.pix32 (b : Byte) : Encoding.Statement (.pix32 b) := by
  simp [Encoding.Statement, encode, Instr.format, Instr.selectedAt]
theorem Encoding.padskip (b : Byte) : Encoding.Statement (.padskip b) := by
  simp [Encoding.Statement, encode, Instr.format, Instr.selectedAt]
theorem Encoding.hcap (b : Byte) : Encoding.Statement (.hcap b) := by
  simp [Encoding.Statement, encode, Instr.format, Instr.selectedAt]
theorem Encoding.sigchk (b : Byte) : Encoding.Statement (.sigchk b) := by
  simp [Encoding.Statement, encode, Instr.format, Instr.selectedAt]
theorem Encoding.validate : Encoding.Statement (.validate) := by
  simp [Encoding.Statement, encode, Instr.format, Instr.selectedAt]
theorem Encoding.alloc : Encoding.Statement (.alloc) := by
  simp [Encoding.Statement, encode, Instr.format, Instr.selectedAt]
theorem Encoding.rowchk : Encoding.Statement (.rowchk) := by
  simp [Encoding.Statement, encode, Instr.format, Instr.selectedAt]
theorem Encoding.pixdone (r g bl a : Byte) : Encoding.Statement (.pixdone r g bl a) := by
  simp [Encoding.Statement, encode, Instr.format, Instr.selectedAt]
theorem Encoding.rowend : Encoding.Statement (.rowend) := by
  simp [Encoding.Statement, encode, Instr.format, Instr.selectedAt]
theorem Encoding.finalize : Encoding.Statement (.finalize) := by
  simp [Encoding.Statement, encode, Instr.format, Instr.selectedAt]
theorem Encoding.fail (e : ErrCode) : Encoding.Statement (.fail e) := by
  simp [Encoding.Statement, encode, Instr.format, Instr.selectedAt]

end Sys2Proof.Laws
end

