-- ==== Sys2Proof/Tests/Slice0.lean ====
section
/-! SUPPORT. Tests of the model against the spec's own vectors and examples (`95_test_vectors.md`, the rules' examples), and
for each statement with hypotheses a witness that meets them. -/

namespace Sys2Proof.Tests

open Sys2Proof.Machine

/- One proof at a time: each concurrent kernel evaluation would take a thread of its own. -/
set_option Elab.async false

/-! ### Small states -/

/-- A captured header with these dimensions, depth and compression, and the signature. -/
def header (w h bpp compr : Nat) : Vector Byte 54 :=
  let put (v : Vector Byte 54) (i x k : Nat) : Vector Byte 54 :=
    (List.range k).foldl (fun v j => v.setIfInBounds (i + j) (BitVec.ofNat 8 (x >>> (8 * j)))) v
  put (put (put (put (put (Vector.replicate 54 0) 0 0x4D42 2) 18 w 4) 22 h 4) 28 bpp 2) 30 compr 4

/-- A load at a header position. -/
def atHeader (phase : Phase) (hoff : BitVec 6) (hdr : Vector Byte 54) : State :=
  { State.reset with phase := phase, hoff := hoff, hdr := hdr }

/-- A load in the pixel rows, with these words of the work bank written. -/
def atRow (phase : Phase) (w h bpp : Nat) (line col : Word) (kb : BitVec 2) (cells : List (Nat × Pixel)) : State :=
  { State.reset with
    phase := phase, hoff := 53, hdr := header w h bpp 0, npix := w * h, line := line, col := col, kb := kb
    pix1 := { cells := cells, gen := 1 } }

/-- The state after a load of a 1 by 1 picture. -/
def loaded : State :=
  { atRow .done 1 1 32 0 0 0 [(0, 0xFF0000FF)] with
    imgValid := true, imgW := 1, imgH := 1, imgLen := 1, active := true }

/-- `loaded` with a failed load after it. -/
def failedAfter : State := { loaded with phase := .failed, err := .signature, hoff := 1 }

/-- An outcome is a next state with a property. -/
def runs (o : Host.Outcome State Fault Refusal) (p : State → Bool) : Bool :=
  match o with
  | .next t => p t
  | .fault _ => false
  | .refused _ => false

/-- The decoder gives this operation. -/
def decodes (sel : Selector) (x : Input) (i : Instr) : Bool :=
  match decode sel x with
  | .ok j => j == i
  | .error _ => false

/-- The decoder turns the input away for this reason. -/
def turnsAway (sel : Selector) (x : Input) (e : NoEvent) : Bool :=
  match decode sel x with
  | .ok _ => false
  | .error e' => e' == e

/-- A data beat, from the values of the ports in the order rst, start, in_valid, in_eos, in_data (R40). -/
def dataBeat (b : Byte) : Input := .edge ⟨false, false, true, false, b⟩

/-- A BMP stream with this header and these bytes after it. -/
def file (w h bpp compr : Nat) (rest : List Byte) : List Byte := (header w h bpp compr).toList ++ rest

/-! ### Well-formedness: one ill-formed term for each check -/

theorem test_wf_refuses_wide_index : Instr.wf 32 (.rdpix 0x100000000) = false := by decide +kernel
theorem test_wf_admits_widest_index : Instr.wf 32 (.rdpix 0xFFFFFFFF) = true := by decide +kernel
theorem test_wf_refuses_failing_with_no_error : Instr.wf 32 (.fail .none) = false := by decide +kernel

/-! ### Decoding, from the encodings of R40 to R43, R60, R61, R70, R72 -/

theorem test_decode_events :
    decodes ⟨.pix, 53, 24, 32⟩ (.edge ⟨true, true, true, true, 0x42⟩) .reset = true ∧
    decodes ⟨.done, 53, 24, 32⟩ (.edge ⟨false, true, true, false, 0x42⟩) .start = true ∧
    decodes ⟨.fhdr, 0, 0, 32⟩ (.edge ⟨false, true, true, true, 0xFF⟩) .eos = true ∧
    decodes ⟨.idle, 0, 0, 32⟩ (.readReg 0b011111) (.rdreg 0x1F) = true ∧
    decodes ⟨.pix, 53, 24, 32⟩ (.readPix 12) (.rdpix 12) = true ∧
    decodeTableWord 8 0b01000010 = some (.byte 0x42) := by decide +kernel

theorem test_decode_turns_away :
    turnsAway ⟨.idle, 0, 0, 32⟩ (dataBeat 0x42) .beatNotReady = true ∧
    turnsAway ⟨.pix, 53, 24, 32⟩ (.edge ⟨false, true, false, false, 0⟩) .startWhileBusy = true ∧
    turnsAway ⟨.pix, 53, 24, 32⟩ (.edge ⟨false, false, false, true, 7⟩) .idleEdge = true ∧
    turnsAway ⟨.idle, 0, 0, 32⟩ (.readPix 0x100000000) .addressTooWide = true := by decide +kernel

theorem test_decode_file_header :
    decodes ⟨.fhdr, 0, 0, 32⟩ (dataBeat 0b01000010) (.fhSig 0x42) = true ∧
    decodes ⟨.fhdr, 1, 0, 32⟩ (dataBeat 0b01001101) (.fhSig 0x4D) = true ∧
    decodes ⟨.fhdr, 2, 0, 32⟩ (dataBeat 0b01000110) (.fhFsize 0x46) = true ∧
    decodes ⟨.fhdr, 5, 0, 32⟩ (dataBeat 0) (.fhFsize 0) = true ∧
    decodes ⟨.fhdr, 6, 0, 32⟩ (dataBeat 0xFF) (.fhRsv1 0xFF) = true ∧
    decodes ⟨.fhdr, 7, 0, 32⟩ (dataBeat 0xFF) (.fhRsv1 0xFF) = true ∧
    decodes ⟨.fhdr, 8, 0, 32⟩ (dataBeat 0x34) (.fhRsv2 0x34) = true ∧
    decodes ⟨.fhdr, 9, 0, 32⟩ (dataBeat 0x12) (.fhRsv2 0x12) = true ∧
    decodes ⟨.fhdr, 10, 0, 32⟩ (dataBeat 54) (.fhOffbits 54) = true ∧
    decodes ⟨.fhdr, 13, 0, 32⟩ (dataBeat 0) (.fhOffbits 0) = true := by decide +kernel

theorem test_decode_info_header :
    decodes ⟨.ihdr, 14, 0, 32⟩ (dataBeat 40) (.ihSize 40) = true ∧
    decodes ⟨.ihdr, 18, 0, 32⟩ (dataBeat 4) (.ihWidth 4) = true ∧
    decodes ⟨.ihdr, 22, 0, 32⟩ (dataBeat 3) (.ihHeight 3) = true ∧
    decodes ⟨.ihdr, 26, 0, 32⟩ (dataBeat 1) (.ihPlanes 1) = true ∧
    decodes ⟨.ihdr, 28, 0, 32⟩ (dataBeat 24) (.ihBpp 24) = true ∧
    decodes ⟨.ihdr, 33, 24, 32⟩ (dataBeat 0) (.ihCompr 0) = true ∧
    decodes ⟨.ihdr, 34, 24, 32⟩ (dataBeat 7) (.ihImgsize 7) = true ∧
    decodes ⟨.ihdr, 38, 24, 32⟩ (dataBeat 0x13) (.ihXppm 0x13) = true ∧
    decodes ⟨.ihdr, 42, 24, 32⟩ (dataBeat 0x13) (.ihYppm 0x13) = true ∧
    decodes ⟨.ihdr, 46, 24, 32⟩ (dataBeat 1) (.ihClrused 1) = true ∧
    decodes ⟨.ihdr, 53, 24, 32⟩ (dataBeat 5) (.ihClrimp 5) = true := by decide +kernel

theorem test_decode_rows :
    decodes ⟨.pix, 53, 24, 32⟩ (dataBeat 0x10) (.pix24 0x10) = true ∧
    decodes ⟨.pix, 53, 32, 32⟩ (dataBeat 0x80) (.pix32 0x80) = true ∧
    decodes ⟨.pad, 53, 24, 32⟩ (dataBeat 0xEE) (.padskip 0xEE) = true := by decide +kernel

theorem test_decode_table_words :
    decodeTableWord 16 0b0100110101000010 = some (.fhSig 0x42) ∧
    decodeTableWord 32 0 = some (.ihCompr 0) ∧
    decodeTableWord 24 0x302010 = some (.pix24 0x10) ∧
    decodeTableWord 16 24 = some (.pix24 0) ∧
    decodeTableWord 16 32 = some (.pix32 0) := by decide +kernel

theorem test_fetch_word_runs_the_signature :
    runs (step (State.reset.withFetchWord 16 0x4D42)) (fun t => t.hdrAt 0 == 0x42 && t.hoff == 1) = true := by decide +kernel

theorem test_fetch_word_runs_the_pixel_bytes :
    runs (step (State.reset.withFetchWord 16 24)) (fun t => t.kb == 1 && t.bpp == 24) = true ∧
    runs (step (State.reset.withFetchWord 16 32)) (fun t => t.kb == 1 && t.bpp == 32) = true ∧
    runs (step (State.reset.withFetchWord 32 0)) (fun t => t.hoff == 31 && t.phase == .ihdr) = true ∧
    runs (step (State.reset.withFetchWord 8 0x42)) (fun t => t.hdrAt 0 == 0x42) = true := by decide +kernel

/-! ### Host events (V1 to V9) -/

theorem test_start_from_reset :
    runs (exec .start State.reset) (fun t => t.phase == .fhdr && t.busy && t.status == 0x009) = true := by decide +kernel

theorem test_start_clears_a_failed_load :
    runs (exec .start failedAfter) (fun t => t.phase == .fhdr && t.err == .none && t.hdrAt 0 == 0 && t.imgValid) = true := by
  decide +kernel

theorem test_empty_stream_is_an_open_failure :
    runs (exec .eos (atHeader .fhdr 0 (Vector.replicate 54 0))) (fun t => t.status == 0x126 && t.hoff == 0) = true := by
  decide +kernel

theorem test_short_stream_is_a_read_failure :
    runs (exec .eos (atHeader .ihdr 20 (header 0 0 0 0))) (fun t => t.err == .io && t.hoff == 20) = true := by decide +kernel

theorem test_byte_without_start_is_not_accepted :
    runs (exec (.byte 0x42) State.reset) (fun t => t == State.reset) = true := by decide +kernel

theorem test_reset_discards_the_image :
    runs (exec .reset loaded) (fun t => t.phase == .idle && !t.imgValid && t.imgLen == 0 && !t.active && t.status == 0) = true := by
  decide +kernel

theorem test_status_after_signature_failure :
    runs (exec (.rdreg 0x00) { atHeader .failed 1 (header 0 0 0 0) with err := .signature })
      (fun t => t.port.regRdata == 0x326) = true := by decide +kernel

theorem test_register_reads :
    runs (exec (.rdreg 0x07) (atRow .pix 2 2 24 0 1 2 [])) (fun t => t.port.regRdata == 0x0B5) = true ∧
    runs (exec (.rdreg 0x16) (atRow .pix 258 2 24 0 1 2 [])) (fun t => t.port.regRdata == 258) = true := by decide +kernel

theorem test_pixel_reads :
    runs (exec (.rdpix 0) loaded) (fun t => t.port.rdOk && t.port.rdData == 0xFF0000FF) = true ∧
    runs (exec (.rdpix 1) loaded) (fun t => !t.port.rdOk && t.port.rdData == 0) = true := by decide +kernel

/-! ### Headers (R96, R110 to R116, R130 to R144, V10 to V47) -/

theorem test_capture_moves_to_info_header :
    runs (exec (.fhOffbits 0) (atHeader .fhdr 13 (header 0 0 0 0))) (fun t => t.phase == .ihdr && t.hoff == 14) = true := by
  decide +kernel

theorem test_bad_signature :
    runs (exec (.fhSig 0x41) (atHeader .fhdr 1 ((Vector.replicate 54 0).setIfInBounds 0 0x42)))
      (fun t => t.phase == .failed && t.err == .signature && t.sig == 0x4142 && t.hoff == 1) = true := by decide +kernel

theorem test_little_endian_fields :
    runs (exec (.ihWidth 0x01) (atHeader .ihdr 19 (header 2 0 0 0))) (fun t => t.width == 258 && t.hoff == 20) = true ∧
    runs (exec (.ihBpp 0x01) (atHeader .ihdr 29 (header 2 0 24 0))) (fun t => t.bpp == 280) = true := by decide +kernel

theorem test_field_captures_are_stored :
    ([(Instr.fhFsize 7, Phase.fhdr, (2 : BitVec 6)), (.fhRsv1 7, .fhdr, 6), (.fhRsv2 7, .fhdr, 9), (.ihSize 7, .ihdr, 14),
      (.ihHeight 7, .ihdr, 25), (.ihPlanes 7, .ihdr, 26), (.ihCompr 7, .ihdr, 33), (.ihImgsize 7, .ihdr, 34),
      (.ihXppm 7, .ihdr, 41), (.ihYppm 7, .ihdr, 42), (.ihClrused 7, .ihdr, 49), (.ihClrimp 7, .ihdr, 52)].all
      fun x => runs (exec x.1 (atHeader x.2.1 x.2.2 (header 4 3 24 0)))
        (fun t => t.hdrAt x.2.2.toNat == 7 && t.hoff == x.2.2 + 1 && t.phase == x.2.1)) = true := by decide +kernel

theorem test_good_header_enters_the_rows :
    runs (exec (.ihClrimp 0) (atHeader .ihdr 53 (header 4 3 24 0)))
      (fun t => t.phase == .pix && t.npix == 12 && t.hoff == 53) = true := by decide +kernel

theorem test_header_failures :
    ([(0, 3, 16, 1, ErrCode.zeroDim), (4, 0, 24, 0, .zeroDim), (4, 3, 16, 1, .bpp), (4, 3, 280, 0, .bpp),
      (4, 3, 24, 0x01000000, .compression), (65536, 65536, 24, 0, .overflow), (65535, 65537, 24, 0, .capacity),
      (257, 256, 24, 0, .capacity)].all fun x =>
      runs (exec (.hcap 0) (atHeader .ihdr 53 (header x.1 x.2.1 x.2.2.1 x.2.2.2.1)))
        (fun t => t.phase == .failed && t.err == x.2.2.2.2 && t.hoff == 53 && t.npix == 0)) = true := by decide +kernel

theorem test_capacity_boundary :
    runs (exec .alloc (atHeader .ihdr 53 (header 256 256 24 0))) (fun t => t.npix == 65536 && t.phase == .pix) = true ∧
    runs (exec .alloc (atHeader .ihdr 53 (header 257 256 24 0))) (fun t => t.err == .capacity) = true := by decide +kernel

theorem test_sigchk_is_exact :
    runs (exec (.sigchk 0x6D) (atHeader .fhdr 1 ((Vector.replicate 54 0).setIfInBounds 0 0x62)))
      (fun t => t.err == .signature) = true := by decide +kernel

theorem test_validate_order :
    runs (exec .validate (atHeader .ihdr 53 (header 4 3 16 1))) (fun t => t.err == .bpp) = true := by decide +kernel

theorem test_mul_size :
    mulSize (2 ^ 32 - 1) 4 3 = some 12 ∧ mulSize (2 ^ 32 - 1) 0 7 = some 0 ∧
    mulSize (2 ^ 32 - 1) 65535 65537 = some 4294967295 ∧ mulSize (2 ^ 32 - 1) 65536 65536 = none ∧
    mulSize (2 ^ 32 - 1) 4294967295 2 = none ∧
    mulSize (2 ^ 64 - 1) 4294967295 4294967295 = some 18446744065119617025 := by decide +kernel

/-! ### Rows (V50 to V75) -/

theorem test_padding_lengths :
    ([1, 2, 3, 4, 5, 6, 7, 8, 0x55555555, 0xFFFFFFFF].map fun w => padding w 3) = [1, 2, 3, 0, 1, 2, 3, 0, 1, 3] ∧
    ([1, 2, 3, 4].map fun w => padding w 4) = [0, 0, 0, 0] := by decide +kernel

theorem test_pixel24_reorder :
    runs (exec (.pix24 0x30) { atRow .pix 2 2 24 0 1 2 [(2, 0)] with pxb := 0x10, pxg := 0x20 })
      (fun t => t.work.find 3 == some 0x00102030 && t.kb == 0 && t.col == 0 && t.phase == .pad) = true := by decide +kernel

theorem test_pixel32_last_pixel_commits :
    runs (exec (.pix32 0x80) { atRow .pix 1 2 32 1 0 3 [(1, 0)] with pxb := 1, pxg := 2, pxr := 3 })
      (fun t => t.phase == .done && t.active && t.committed.find 0 == some 0x80010203 && t.imgLen == 2) = true := by decide +kernel

theorem test_pixel_bytes_by_role :
    runs (exec (.pix32 0x03) (atRow .pix 1 2 32 1 0 2 [(1, 0)])) (fun t => t.pxr == 3 && t.kb == 3) = true ∧
    runs (exec (.pix24 0x20) (atRow .pix 2 2 24 0 1 1 [(2, 0)])) (fun t => t.pxg == 0x20 && t.kb == 2) = true := by decide +kernel

theorem test_pixdone_next_column :
    runs (exec (.pixdone 3 2 1 0) (atRow .pix 3 2 24 0 0 2 []))
      (fun t => t.work.find 3 == some 0x00010203 && t.col == 1 && t.kb == 0) = true := by decide +kernel

theorem test_padding_byte :
    runs (exec (.padskip 0xEE) (atRow .pad 2 2 24 0 0 0 [(2, 0), (3, 0)])) (fun t => t.padcnt == 1 && t.phase == .pad) = true ∧
    runs (exec (.padskip 0xEE) { atRow .pad 2 2 24 0 0 0 [(2, 0), (3, 0)] with padcnt := 1 })
      (fun t => t.padcnt == 0 && t.phase == .pix && t.line == 1) = true := by decide +kernel

theorem test_rowend_advances :
    runs (exec .rowend (atRow .pix 4 3 24 1 0 0 [])) (fun t => t.line == 2 && t.phase == .pix) = true := by decide +kernel

theorem test_rowchk_short_buffer :
    runs (exec .rowchk { atRow .pix 4 3 24 0 0 0 [] with npix := 11 }) (fun t => t.err == .state) = true ∧
    runs (exec .rowchk (atRow .pix 4 3 24 0 0 0 [])) (fun t => t.phase == .pix) = true := by decide +kernel

theorem test_finalize_commits :
    runs (exec .finalize (atRow .pix 4 3 24 2 0 0 []))
      (fun t => t.active && t.imgW == 4 && t.imgH == 3 && t.imgLen == 12 && t.imgValid && t.phase == .done) = true := by decide +kernel

theorem test_failure_keeps_the_image :
    runs (exec (.fail .io) { loaded with phase := .pix })
      (fun t => t.phase == .failed && t.err == .io && t.imgValid && t.rdData 0 == 0xFF0000FF && t.pix0.cells == []) = true := by
  decide +kernel

theorem test_final_padding_optional :
    runs (exec .eos { atRow .pad 1 1 24 0 0 0 [(0, 0x00FF8000)] with
        cfg := { Config.reference with finalPadOptional := true } })
      (fun t => t.phase == .done && t.rdOk 0 && t.rdData 0 == 0x00FF8000) = true ∧
    runs (exec .eos (atRow .pad 1 1 24 0 0 0 [(0, 0x00FF8000)]))
      (fun t => t.phase == .failed && t.err == .io && !t.imgValid) = true := by decide +kernel

/-! ### Witnesses: states and operands that meet the hypotheses of the statements -/

/-- A file header position with the first signature byte taken. -/
def atSignature : State := atHeader .fhdr 1 ((Vector.replicate 54 0).setIfInBounds 0 0x42)

/-- The last header byte is next, of a header with these values. -/
def atLastByte (w h bpp compr : Nat) : State := atHeader .ihdr 53 (header w h bpp compr)

/-- The last pixel of a 4-pixel row without padding, one more row to come. -/
def atUnpaddedEnd : State := atRow .pix 4 2 24 0 3 2 [(4, 0), (5, 0), (6, 0)]

/-- The last padding byte of a picture is next. -/
def atLastPadding : State := atRow .pad 1 1 24 0 0 0 [(0, 0)]

/-- The same where the last padding is optional. -/
def atOptionalPadding : State := { atLastPadding with cfg := { Config.reference with finalPadOptional := true } }

/-- One of two padding bytes taken. -/
def atSecondPadding : State := { atRow .pad 2 2 24 0 0 0 [(2, 0), (3, 0)] with padcnt := 1 }

/-- A state with these inputs presented. -/
def presenting (s : State) (xs : List Input) : State := { s with inbox := xs }

/-- A good 1 by 1 file at 24 bpp, with its padding byte. -/
def smallFile : List Byte := file 1 1 24 0 [1, 2, 3, 0]

/-- The invariant, as a check of one state. -/
def invCheck (s : State) : Bool :=
  s.cfg.wf && decide (s.phase = .fhdr → s.hoff.toNat ≤ 13) &&
  decide (s.phase = .ihdr → 14 ≤ s.hoff.toNat ∧ s.hoff.toNat ≤ 53) &&
  decide ((s.phase = .fhdr ∧ 2 ≤ s.hoff.toNat) ∨ s.phase = .ihdr ∨ s.inRows → s.hdrAt 0 = 0x42 ∧ s.hdrAt 1 = 0x4D) &&
  decide (s.phase = .idle ∨ s.phase = .fhdr ∨ s.phase = .ihdr → s.npix = 0) &&
  decide (s.inRows →
    1 ≤ s.w ∧ 1 ≤ s.h ∧ (s.bpp = 24 ∨ s.bpp = 32) ∧ s.compr = 0 ∧ s.npix = s.w * s.h ∧ s.line.toNat < s.h) &&
  decide (s.inRows ∨ s.phase = .done → s.hoff = 53) &&
  decide (s.phase = .pix → s.col.toNat < s.w ∧ s.kb.toNat < s.bytesPerPixel ∧ s.padcnt = 0) &&
  decide (s.phase = .pad → 1 ≤ s.padlen ∧ s.padcnt.toNat < s.padlen ∧ s.col = 0 ∧ s.kb = 0) &&
  decide (s.err ≠ .none ↔ s.phase = .failed) && decide (s.npix ≤ s.cfg.cap) &&
  decide (s.imgValid = true → s.imgLen = s.imgW.toNat * s.imgH.toNat ∧ 1 ≤ s.imgLen ∧ s.imgLen ≤ s.cfg.cap) &&
  decide (s.imgValid = false → s.imgW = 0 ∧ s.imgH = 0 ∧ s.imgLen = 0 ∧ s.active = false) &&
  decide (s.phase = .done → s.imgValid = true ∧ s.imgW = s.width ∧ s.imgH = s.height ∧ s.imgLen = s.npix) &&
  s.pix0.wf s.cfg.cap && s.pix1.wf s.cfg.cap &&
  decide (s.imgValid = true → ∀ a, a < s.imgLen → (s.committed.find a).isSome = true) &&
  decide (s.phase = .pix → ∀ a, a < s.npix →
    (s.h - 1 - s.line.toNat) * s.w + s.w ≤ a ∨
      ((s.h - 1 - s.line.toNat) * s.w ≤ a ∧ a < (s.h - 1 - s.line.toNat) * s.w + s.col.toNat) →
    (s.work.find a).isSome = true) &&
  decide (s.phase = .pad → ∀ a, a < s.npix → (s.h - 1 - s.line.toNat) * s.w ≤ a → (s.work.find a).isSome = true)

theorem inv_of_check {s : State} (h : invCheck s = true) : s.Inv := by
  simp only [invCheck, Bool.and_eq_true, decide_eq_true_eq, and_assoc] at h
  obtain ⟨a, b, c, d, e, f, g, i, j, k, l, m, n, o, p, q, r, t, u⟩ := h
  exact ⟨a, b, c, d, e, f, g, i, j, k, l, m, n, o, p, q, r, t, u⟩

/-- A legal header, as a check of one stream. -/
theorem legal_of_check {cfg : Config.Params} {f : List Byte}
    (h : 54 ≤ f.length ∧ (byteAt f 0 = 0x42 ∧ byteAt f 1 = 0x4D) ∧ (fileW f ≠ 0 ∧ fileH f ≠ 0) ∧
      (fileLe16 f 28 = 24 ∨ fileLe16 f 28 = 32) ∧ fileLe32 f 30 = 0 ∧ fileW f * fileH f ≤ cfg.cap) : HeaderLegal cfg f :=
  ⟨h.1, h.2.1, h.2.2.1, h.2.2.2.1, h.2.2.2.2.1, h.2.2.2.2.2⟩

theorem witness_reset_inv : State.reset.Inv := inv_of_check (by decide +kernel)
theorem witness_loaded_inv : loaded.Inv := inv_of_check (by decide +kernel)
theorem witness_failed_inv : failedAfter.Inv := inv_of_check (by decide +kernel)
theorem witness_file_header_inv : (atHeader .fhdr 0 (Vector.replicate 54 0)).Inv := inv_of_check (by decide +kernel)
theorem witness_signature_inv : atSignature.Inv := inv_of_check (by decide +kernel)
theorem witness_last_byte_inv : (atLastByte 1 1 24 0).Inv := inv_of_check (by decide +kernel)
theorem witness_row_start_inv : (atRow .pix 2 2 24 0 0 0 []).Inv := inv_of_check (by decide +kernel)
theorem witness_row_end_inv : (atRow .pix 2 2 24 0 1 2 [(2, 0)]).Inv := inv_of_check (by decide +kernel)
theorem witness_unpadded_end_inv : atUnpaddedEnd.Inv := inv_of_check (by decide +kernel)
theorem witness_last_pixel_inv : (atRow .pix 1 1 32 0 0 3 []).Inv := inv_of_check (by decide +kernel)
theorem witness_padding_inv : (atRow .pad 2 2 24 0 0 0 [(2, 0), (3, 0)]).Inv := inv_of_check (by decide +kernel)
theorem witness_second_padding_inv : atSecondPadding.Inv := inv_of_check (by decide +kernel)
theorem witness_last_padding_inv : atLastPadding.Inv := inv_of_check (by decide +kernel)
theorem witness_optional_padding_inv : atOptionalPadding.Inv := inv_of_check (by decide +kernel)

theorem witness_DecodeOfEncodeIsTheInstruction :
    Instr.wf 32 (.ihClrimp 5) = true ∧ Instr.selectedAt (.ihClrimp 5) ⟨.ihdr, 53, 24, 32⟩ = true ∧
    Instr.wf 32 (.rdpix 0xFFFFFFFF) = true ∧ Instr.selectedAt (.rdpix 0xFFFFFFFF) ⟨.pix, 53, 24, 32⟩ = true := by
  decide +kernel

theorem witness_DecodedIsWellFormedAndSelected :
    decode ⟨.pix, 53, 32, 32⟩ (dataBeat 0x80) = .ok (.pix32 0x80) := by rfl

theorem witness_EventOfAnEdgeByPriority :
    (⟨.pix, 53, 24, 32⟩ : Selector).phase.busy = true ∧ (⟨.done, 53, 24, 32⟩ : Selector).phase.busy = false := by decide

theorem witness_StreamOperationSelectedBySequencer :
    ([(0, Instr.fhSig 9), (1, .fhSig 9), (2, .fhFsize 9), (5, .fhFsize 9), (6, .fhRsv1 9), (7, .fhRsv1 9), (8, .fhRsv2 9),
      (9, .fhRsv2 9), (10, .fhOffbits 9), (13, .fhOffbits 9)].all
        fun (x : BitVec 6 × Instr) => streamOp ⟨.fhdr, x.1, 0, 32⟩ 9 == x.2) = true ∧
    ([(14, Instr.ihSize 9), (17, .ihSize 9), (18, .ihWidth 9), (21, .ihWidth 9), (22, .ihHeight 9), (25, .ihHeight 9),
      (26, .ihPlanes 9), (27, .ihPlanes 9), (28, .ihBpp 9), (29, .ihBpp 9), (30, .ihCompr 9), (33, .ihCompr 9),
      (34, .ihImgsize 9), (37, .ihImgsize 9), (38, .ihXppm 9), (41, .ihXppm 9), (42, .ihYppm 9), (45, .ihYppm 9),
      (46, .ihClrused 9), (49, .ihClrused 9), (50, .ihClrimp 9), (53, .ihClrimp 9)].all
        fun (x : BitVec 6 × Instr) => streamOp ⟨.ihdr, x.1, 0, 32⟩ 9 == x.2) = true := by decide +kernel

theorem witness_StepRunsDecodedInstruction :
    ∃ rest, (presenting loaded [.readPix 0]).cfg.wf = true ∧ (presenting loaded [.readPix 0]).inbox = .readPix 0 :: rest ∧
      decode (presenting loaded [.readPix 0]).selector (.readPix 0) = .ok (.rdpix 0) :=
  ⟨[], by decide +kernel, rfl, rfl⟩

theorem witness_StepWithoutEventChangesNothing :
    (State.reset.cfg.wf = true ∧ State.reset.inbox = []) ∧
    decode State.reset.selector (dataBeat 7) = .error .beatNotReady ∧
    decode State.reset.selector (.readPix 0x100000000) = .error .addressTooWide ∧
    { Config.reference with sz := 31 }.wf = false :=
  ⟨by decide +kernel, rfl, rfl, by decide +kernel⟩

theorem witness_StartBeginsLoad : State.reset.busy = false ∧ loaded.busy = false ∧ failedAfter.busy = false := by decide +kernel

theorem witness_StartWhileBusyIsIgnored : (atRow .pix 2 2 24 0 0 0 []).busy = true := by decide +kernel

theorem witness_EndOfStreamFailsOrCommits :
    ((atHeader .fhdr 0 (Vector.replicate 54 0)).busy = true ∧ (atHeader .fhdr 0 (Vector.replicate 54 0)).hoff = 0) ∧
    (atOptionalPadding.Inv ∧ atOptionalPadding.busy = true ∧ atOptionalPadding.cfg.finalPadOptional = true ∧
      atOptionalPadding.phase = .pad ∧ atOptionalPadding.line.toNat + 1 = atOptionalPadding.h) ∧
    (atLastPadding.busy = true ∧ ¬(atLastPadding.phase = .fhdr ∧ atLastPadding.hoff = 0) ∧
      atLastPadding.cfg.finalPadOptional = false) :=
  ⟨by decide +kernel, ⟨witness_optional_padding_inv, by decide +kernel⟩, by decide +kernel⟩

theorem witness_ByteRunsOperationSelectedByPhase :
    atSignature.phase = .fhdr ∧ (atLastByte 1 1 24 0).phase = .ihdr ∧ (atRow .pix 1 1 32 0 0 3 []).phase = .pix ∧
    atLastPadding.phase = .pad ∧ atLastPadding.busy = true ∧ loaded.busy = false := by decide +kernel

theorem witness_EveryPresentableOperationCompletes :
    (atRow .pix 2 2 24 0 1 2 [(2, 0)]).Inv ∧ Instr.wf 32 (.byte 7) = true ∧ (Instr.byte 7).format ≠ .internal :=
  ⟨witness_row_end_inv, by decide, by decide⟩

theorem witness_HeaderCaptureStep :
    ((atHeader .fhdr 12 (header 1 1 24 0)).phase = .fhdr ∧ (12 : BitVec 6) ≠ 1 ∧ (12 : BitVec 6) ≠ 13 ∧ (12 : BitVec 6) ≠ 53) ∧
    (atHeader .fhdr 13 (header 1 1 24 0)).hoff = 13 ∧
    (atSignature.hoff = 1 ∧ atSignature.hdrAt 0 = 0x42) ∧
    ¬(atSignature.hdrAt 0 = 0x42 ∧ (0x41 : Byte) = 0x4D) ∧
    (atLastByte 1 1 24 0).hoff = 53 ∧
    runs (exec (.validate) (atLastByte 1 1 24 0)) (fun _ => true) = true ∧
    runs (exec .validate (atLastByte 0 1 24 0)) (fun t => t.phase == .failed) = true :=
  ⟨by decide +kernel, rfl, by decide +kernel, by decide +kernel, rfl, by decide +kernel, by decide +kernel⟩

theorem witness_FieldCaptureStoresByte :
    Instr.selectedAt (.ihClrimp 7) (atHeader .ihdr 52 (header 1 1 24 0)).selector = true ∧
    Instr.selectedAt (.fhSig 7) (atHeader .fhdr 0 (header 1 1 24 0)).selector = true ∧
    Instr.selectedAt (.fhOffbits 7) (atHeader .fhdr 12 (header 1 1 24 0)).selector = true := by decide +kernel

theorem witness_SignatureJudgedAtSecondByte : atSignature.phase = .fhdr ∧ atSignature.hoff = 1 ∧ atSignature.hdrAt 0 = 0x42 := by
  decide +kernel

theorem witness_OffbitsLastByteEntersInfoHeader :
    (atHeader .fhdr 13 (header 1 1 24 0)).phase = .fhdr ∧ (atHeader .fhdr 13 (header 1 1 24 0)).hoff = 13 := by decide +kernel

theorem witness_LastHeaderByteJudgesInOrder :
    (atLastByte 1 1 24 0).phase = .ihdr ∧ (atLastByte 1 1 24 0).hoff = 53 ∧
    { atLastByte 1 1 24 0 with hdr := (atLastByte 1 1 24 0).hdr.setIfInBounds 53 7 }.hdrAt 53 = 7 := by decide +kernel

theorem witness_UnselectedStreamOperationDoesNothing :
    (Instr.fhSig 7).format = .fileHeader ∧ Instr.selectedAt (.fhSig 7) (atHeader .fhdr 2 (header 1 1 24 0)).selector = false ∧
    (Instr.padskip 7).format = .row ∧ Instr.selectedAt (.padskip 7) State.reset.selector = false ∧
    (Instr.ihSize 7).format = .infoHeader ∧ Instr.selectedAt (.ihSize 7) atSignature.selector = false ∧
    (Instr.pix24 7).format = .pixel24 ∧ Instr.selectedAt (.pix24 7) (atRow .pix 1 1 32 0 0 3 []).selector = false ∧
    (Instr.pix32 7).format = .pixel32 ∧ Instr.selectedAt (.pix32 7) (atRow .pix 2 2 24 0 0 0 []).selector = false ∧
    ((atRow .pix 1 1 16 0 0 0 []).phase = .pix ∧ (atRow .pix 1 1 16 0 0 0 []).bpp ≠ 24 ∧
      (atRow .pix 1 1 16 0 0 0 []).bpp ≠ 32) := by decide +kernel

theorem witness_SigchkComparesBothBytes : atSignature.hdrAt 0 = 0x42 ∧ State.reset.hdrAt 0 ≠ 0x42 := by decide +kernel

theorem witness_ValidateTestsInOrder :
    runs (exec .validate (atLastByte 1 1 24 0)) (fun _ => true) = true ∧
    runs (exec .validate (atLastByte 1 1 16 0)) (fun _ => true) = true :=
  ⟨by decide +kernel, by decide +kernel⟩

theorem witness_MulSizeIsExactOrNothing :
    (65536 : Nat) < 2 ^ Config.reference.sz ∧ (4294967295 : Nat) < 2 ^ Config.reference.sz ∧
    (64 ≤ ({ Config.reference with sz := 64 } : Config.Params).sz ∧ (4294967295 : Nat) < 2 ^ 32) := by decide +kernel

theorem witness_AllocSizesTheImage :
    runs (exec .alloc (atLastByte 1 1 24 0)) (fun _ => true) = true ∧
    runs (exec .alloc (atLastByte 257 256 24 0)) (fun _ => true) = true :=
  ⟨by decide +kernel, by decide +kernel⟩

theorem witness_RowGuardNeverFires :
    ((atRow .pix 2 2 24 0 0 0 []).Inv ∧ (atRow .pix 2 2 24 0 0 0 []).phase = .pix) ∧
    (atLastPadding.Inv ∧ atLastPadding.phase = .pad) :=
  ⟨⟨witness_row_start_inv, rfl⟩, witness_last_padding_inv, rfl⟩

theorem witness_PixdoneStoresOneWordAndAdvances :
    ((atRow .pix 2 2 24 0 0 0 []).Inv ∧ 0 + 1 < (atRow .pix 2 2 24 0 0 0 []).w) ∧
    ((atRow .pix 2 2 24 0 1 2 [(2, 0)]).Inv ∧ 1 + 1 = (atRow .pix 2 2 24 0 1 2 [(2, 0)]).w ∧
      0 < (atRow .pix 2 2 24 0 1 2 [(2, 0)]).padlen) ∧
    (atUnpaddedEnd.Inv ∧ atUnpaddedEnd.col.toNat + 1 = atUnpaddedEnd.w ∧ atUnpaddedEnd.padlen = 0 ∧
      atUnpaddedEnd.line.toNat + 1 < atUnpaddedEnd.h) ∧
    ((atRow .pix 1 1 32 0 0 3 []).Inv ∧ 0 + 1 = (atRow .pix 1 1 32 0 0 3 []).w ∧ (atRow .pix 1 1 32 0 0 3 []).padlen = 0 ∧
      0 + 1 = (atRow .pix 1 1 32 0 0 3 []).h) :=
  ⟨⟨witness_row_start_inv, by decide +kernel⟩, ⟨witness_row_end_inv, by decide +kernel⟩,
    ⟨witness_unpadded_end_inv, by decide +kernel⟩, witness_last_pixel_inv, by decide +kernel⟩

theorem witness_RowendAdvancesOrFinalizes :
    (0 : Word).toNat + 1 < (atRow .pix 2 2 24 0 0 0 []).h ∧ (atRow .pix 2 2 24 1 0 0 []).h ≤ (1 : Word).toNat + 1 := by
  decide +kernel

theorem witness_FinalizeCommitsTheImage :
    (0 < atLastPadding.npix ∧ atLastPadding.w * atLastPadding.h < 2 ^ atLastPadding.cfg.sz ∧
      atLastPadding.w * atLastPadding.h ≤ atLastPadding.npix) ∧
    ¬(0 < State.reset.npix) ∧ atLastPadding.Inv ∧ atLastPadding.phase = .pad :=
  ⟨by decide +kernel, by decide +kernel, witness_last_padding_inv, rfl⟩

theorem witness_FailureEntryKeepsAllButCause :
    atSignature.phase = .fhdr ∧ atSignature.hoff.toNat ≤ 53 ∧
    runs (exec (.hcap 0x41) atSignature) (fun t => t.phase == .failed) = true := by decide +kernel

theorem witness_PixelIndexBeyondStoreFaults :
    { atRow .pix 2 2 24 0 0 0 [] with cfg := { Config.reference with cap := 2 } }.cfg.cap ≤ (2 - 1 - 0) * 2 + 0 ∧
    ({ loaded with imgLen := 65537 }.imgValid = true ∧ { loaded with imgLen := 65537 }.cfg.cap ≤ 65536 ∧
      65536 < { loaded with imgLen := 65537 }.imgLen) ∧
    ((atRow .pix 2 2 24 0 0 0 []).Inv ∧ (atRow .pix 2 2 24 0 0 0 []).phase = .pix) ∧
    (loaded.Inv ∧ loaded.imgValid = true ∧ 0 < loaded.imgLen) :=
  ⟨by decide +kernel, by decide +kernel, ⟨witness_row_start_inv, rfl⟩, witness_loaded_inv, by decide +kernel⟩

theorem witness_Pix24TakesBytesByRole :
    (atRow .pix 2 2 24 0 0 0 []).Inv ∧ (atRow .pix 2 2 24 0 0 0 []).bpp = 24 ∧
    (atRow .pix 2 2 24 0 0 1 []).Inv ∧ (atRow .pix 2 2 24 0 1 2 [(2, 0)]).Inv :=
  ⟨witness_row_start_inv, by decide +kernel, inv_of_check (by decide +kernel), witness_row_end_inv⟩

theorem witness_Pix32TakesBytesByRole :
    (atRow .pix 1 1 32 0 0 0 []).Inv ∧ (atRow .pix 1 1 32 0 0 1 []).Inv ∧ (atRow .pix 1 1 32 0 0 2 []).Inv ∧
    (atRow .pix 1 1 32 0 0 3 []).Inv ∧ (atRow .pix 1 1 32 0 0 3 []).bpp = 32 := by
  exact ⟨inv_of_check (by decide +kernel), inv_of_check (by decide +kernel), inv_of_check (by decide +kernel),
    witness_last_pixel_inv, by decide +kernel⟩

theorem witness_PadskipDropsByte :
    ((atRow .pad 2 2 24 0 0 0 [(2, 0), (3, 0)]).Inv ∧ 0 + 1 < (atRow .pad 2 2 24 0 0 0 [(2, 0), (3, 0)]).padlen) ∧
    (atSecondPadding.Inv ∧ atSecondPadding.padcnt.toNat + 1 = atSecondPadding.padlen ∧
      atSecondPadding.line.toNat + 1 < atSecondPadding.h) ∧
    (atLastPadding.Inv ∧ atLastPadding.padcnt.toNat + 1 = atLastPadding.padlen ∧
      atLastPadding.line.toNat + 1 = atLastPadding.h) :=
  ⟨⟨witness_padding_inv, by decide +kernel⟩, ⟨witness_second_padding_inv, by decide +kernel⟩,
    witness_last_padding_inv, by decide +kernel⟩

theorem witness_PaddingIsTheLeastToAMultipleOfFour : (1 * 3 + 1) % 4 = 0 ∧ 2 ≤ 2 := by decide

theorem witness_RegisterReadTable :
    ((0x1F : BitVec 6), 50) ∈ ([(0x1F, 50)] : List (BitVec 6 × Nat)) ∧
    (8 ≤ (0x08 : BitVec 6).toNat ∧ (0x0F : BitVec 6).toNat ≤ 15) ∧ 32 ≤ (0x20 : BitVec 6).toNat ∧ loaded.Inv :=
  ⟨by decide, by decide, by decide, witness_loaded_inv⟩

theorem witness_PixelReadIsBoundsChecked :
    loaded.imgLen ≤ loaded.cfg.cap ∧ (loaded.imgValid = true ∧ 0 < loaded.imgLen) ∧ loaded.imgLen ≤ 1 ∧
    State.reset.imgValid = false ∧ (loaded.Inv ∧ 0 < loaded.imgW.toNat ∧ 0 < loaded.imgH.toNat) :=
  ⟨by decide +kernel, by decide +kernel, by decide +kernel, rfl, witness_loaded_inv, by decide +kernel⟩

theorem witness_ReadablePixelsAreSpecified : loaded.Inv ∧ loaded.rdOk 0 = true := ⟨witness_loaded_inv, by decide +kernel⟩

theorem witness_OutputPortsShowTheState :
    runs (exec (.rdpix 0) State.reset) (fun _ => true) = true ∧
    runs (exec (.rdreg 0) State.reset) (fun _ => true) = true :=
  ⟨by decide +kernel, by decide +kernel⟩

theorem witness_ResetMeetsTheInvariant :
    Config.reference.wf = true ∧ { Config.reference with sz := 64, cap := 2 ^ 64 - 1 }.wf = true := by decide +kernel

theorem witness_EveryStepKeepsTheInvariant :
    (presenting State.reset [.edge .startEdge]).Inv ∧
    runs (step (presenting State.reset [.edge .startEdge])) (fun _ => true) = true :=
  ⟨inv_of_check (by decide +kernel), by decide +kernel⟩

/-- What a run from a reachable state answers is reachable. -/
theorem reachable_of_run {p : State → Bool} (k : Nat) {s : State} (h : Reachable s)
    (hr : runs (Host.Core.run Sys2Proof.core k s) p = true) : ∃ t, Reachable t ∧ p t = true := by
  induction k generalizing s with
  | zero => exact ⟨s, h, hr⟩
  | succ k ih =>
    rw [core_run_succ] at hr
    cases ht : step s with
    | next t => rw [ht] at hr; exact ih (.step s t h ht) hr
    | fault r => rw [ht] at hr; cases hr
    | refused r => rw [ht] at hr; cases hr

/-- Reset with these inputs presented is reachable. -/
theorem reachable_presenting (xs : List Input) : Reachable (presenting State.reset xs) :=
  .present _ xs (.reset _ (by decide +kernel))

/-- A reached state of each kind R30 speaks of: the first header byte taken, a failed load, and the smallest picture at its
first pixel byte, in its padding and committed (no shorter run comes there than its header). -/
theorem witness_ReachableStatesAreAsR30Says :
    Reachable State.reset ∧
    (∃ t, Reachable t ∧ (t.phase == .fhdr && t.hoff == 1 && t.hdrAt 0 == 0x42) = true) ∧
    (∃ t, Reachable t ∧ (t.phase == .failed && t.err == .openFailed) = true) ∧
    (∃ t, Reachable t ∧ (t.phase == .pix && t.npix == 1 && t.hoff == 53) = true) ∧
    (∃ t, Reachable t ∧ (t.phase == .pad && t.padlen == 1) = true) ∧
    (∃ t, Reachable t ∧ (t.phase == .done && t.imgValid && t.imgLen == 1) = true) :=
  ⟨.reset _ (by decide +kernel),
    reachable_of_run 2 (reachable_presenting (loadInputs smallFile)) (by decide +kernel),
    reachable_of_run 2 (reachable_presenting (loadInputs [])) (by decide +kernel),
    reachable_of_run 55 (reachable_presenting (loadInputs smallFile)) (by decide +kernel),
    reachable_of_run 58 (reachable_presenting (loadInputs smallFile)) (by decide +kernel),
    reachable_of_run 59 (reachable_presenting (loadInputs smallFile)) (by decide +kernel)⟩

theorem witness_PhaseChangesOnlyAsListed :
    (presenting State.reset [.edge .startEdge]).Inv ∧
    runs (step (presenting State.reset [.edge .startEdge])) (fun t => t.phase == .fhdr) = true :=
  ⟨inv_of_check (by decide +kernel), by decide +kernel⟩

theorem witness_CommittedImageChangesOnlyByCommitOrReset :
    decode loaded.selector (.edge .startEdge) = .ok .start ∧ loaded.busy = false ∧
    runs (step (presenting loaded [.edge .startEdge])) (fun t => t.phase == .fhdr) = true :=
  ⟨rfl, by decide +kernel, by decide +kernel⟩

theorem witness_ParametersNeverChange : runs (exec .reset loaded) (fun _ => true) = true := by decide +kernel

theorem witness_OnlyStartOrResetLeavesFailed :
    failedAfter.phase = .failed ∧ loaded.phase = .done ∧ State.reset.phase = .idle ∧
    decode failedAfter.selector (.readReg 0) = .ok (.rdreg 0) ∧
    runs (step (presenting failedAfter [.readReg 0])) (fun t => t.phase == .failed) = true :=
  ⟨rfl, rfl, rfl, rfl, by decide +kernel⟩

theorem witness_UncheckedByteValueHasNoEffect :
    (atLastByte 1 1 24 0).phase = .ihdr ∧ uncheckedOffset (atLastByte 1 1 24 0).hoff.toNat = true ∧
    uncheckedOffset (2 : BitVec 6).toNat = true := by decide +kernel

theorem witness_UncheckedFieldIsNeverUsed :
    uncheckedOffset 53 = true ∧ atSignature.hoff.toNat ≠ 53 ∧ (atRow .pix 2 2 24 0 0 0 []).inRows := by decide +kernel

theorem witness_StepsOfALoadAreTheLoad : State.reset.Inv ∧ State.reset.busy = false := ⟨witness_reset_inv, rfl⟩

theorem witness_EveryLoadEnds : loaded.Inv ∧ loaded.busy = false := ⟨witness_loaded_inv, rfl⟩

theorem witness_small_file_legal : HeaderLegal Config.reference smallFile := legal_of_check (by decide +kernel)

theorem witness_GoodLoadLeavesThePicture :
    loaded.Inv ∧ loaded.busy = false ∧ HeaderLegal loaded.cfg smallFile ∧ need loaded.cfg smallFile ≤ smallFile.length :=
  ⟨witness_loaded_inv, rfl, witness_small_file_legal, by decide +kernel⟩

theorem witness_GoodLoadConsumesExactlyNeed :
    State.reset.Inv ∧ State.reset.busy = false ∧ HeaderLegal State.reset.cfg smallFile ∧
    need State.reset.cfg smallFile ≤ (smallFile ++ [9]).length :=
  ⟨witness_reset_inv, rfl, witness_small_file_legal, by decide +kernel⟩

theorem witness_ShortStreamFailsWithIo :
    State.reset.Inv ∧ State.reset.busy = false ∧ State.reset.cfg.finalPadOptional = false ∧
    HeaderLegal State.reset.cfg (smallFile.take 57) ∧
    (smallFile.take 57).length < need State.reset.cfg (smallFile.take 57) :=
  ⟨witness_reset_inv, rfl, rfl, legal_of_check (by decide +kernel), by decide +kernel⟩

theorem witness_BadSignatureConsumesTwoBytes :
    State.reset.Inv ∧ State.reset.busy = false ∧ ¬(byteAt [0x42, 0x41] 0 = 0x42 ∧ byteAt [0x42, 0x41] 1 = 0x4D) :=
  ⟨witness_reset_inv, rfl, by decide +kernel⟩

theorem witness_IllegalHeaderFailsOnItsLastByte :
    State.reset.Inv ∧ State.reset.busy = false ∧ 54 ≤ (file 1 1 16 0 []).length ∧ byteAt (file 1 1 16 0 []) 0 = 0x42 ∧
    byteAt (file 1 1 16 0 []) 1 = 0x4D ∧ ¬HeaderLegal State.reset.cfg (file 1 1 16 0 []) :=
  ⟨witness_reset_inv, rfl, by decide +kernel, by decide +kernel, by decide +kernel,
    fun h => absurd h.depth (by decide +kernel)⟩

theorem witness_FailedLoadLeavesTheImage : runs (load [0x58, 0x58] loaded) (fun t => t.phase == .failed) = true := by
  decide +kernel

theorem witness_EveryListedPairMovesPhase :
    (State.reset.Inv ∧ State.reset.phase = .idle) ∧ (loaded.Inv ∧ loaded.phase = .done) ∧
    (failedAfter.Inv ∧ failedAfter.phase = .failed) ∧
    (atSignature.Inv ∧ atSignature.phase = .fhdr ∧ atSignature.hoff = 1 ∧ ¬(atSignature.hdrAt 0 = 0x42 ∧ (0x41 : Byte) = 0x4D)) ∧
    ((atHeader .fhdr 13 (header 1 1 24 0)).Inv ∧ (atHeader .fhdr 0 (Vector.replicate 54 0)).Inv) ∧
    ((atLastByte 0 1 24 0).Inv ∧ ¬((atLastByte 0 1 24 0).setHdr 53 7).headerValid) ∧
    ((atLastByte 257 256 24 0).Inv ∧ ((atLastByte 257 256 24 0).setHdr 53 7).headerValid ∧
      ¬((atLastByte 257 256 24 0).setHdr 53 7).sizeFits) ∧
    ((atLastByte 256 256 24 0).Inv ∧ ((atLastByte 256 256 24 0).setHdr 53 7).headerValid ∧
      ((atLastByte 256 256 24 0).setHdr 53 7).sizeFits) :=
  ⟨⟨witness_reset_inv, rfl⟩, ⟨witness_loaded_inv, rfl⟩, ⟨witness_failed_inv, rfl⟩,
    ⟨witness_signature_inv, by decide +kernel⟩, ⟨inv_of_check (by decide +kernel), witness_file_header_inv⟩,
    ⟨inv_of_check (by decide +kernel), by decide +kernel⟩, ⟨inv_of_check (by decide +kernel), by decide +kernel⟩,
    inv_of_check (by decide +kernel), by decide +kernel⟩

theorem witness_EveryListedPairMovesPhase_rows :
    ((atRow .pix 2 2 24 0 1 2 [(2, 0)]).Inv ∧ (1 : Word).toNat + 1 = (atRow .pix 2 2 24 0 1 2 [(2, 0)]).w ∧
      (2 : BitVec 2).toNat + 1 = (atRow .pix 2 2 24 0 1 2 [(2, 0)]).bytesPerPixel ∧
      0 < (atRow .pix 2 2 24 0 1 2 [(2, 0)]).padlen) ∧
    (atUnpaddedEnd.Inv ∧ atUnpaddedEnd.col.toNat + 1 = atUnpaddedEnd.w ∧ atUnpaddedEnd.padlen = 0 ∧
      atUnpaddedEnd.kb.toNat + 1 = atUnpaddedEnd.bytesPerPixel ∧ atUnpaddedEnd.line.toNat + 1 < atUnpaddedEnd.h) ∧
    ((atRow .pix 1 1 32 0 0 3 []).Inv ∧ (0 : Word).toNat + 1 = (atRow .pix 1 1 32 0 0 3 []).w ∧
      (3 : BitVec 2).toNat + 1 = (atRow .pix 1 1 32 0 0 3 []).bytesPerPixel ∧
      (atRow .pix 1 1 32 0 0 3 []).padlen = 0 ∧ (0 : Word).toNat + 1 = (atRow .pix 1 1 32 0 0 3 []).h) ∧
    (atSecondPadding.Inv ∧ atSecondPadding.padcnt.toNat + 1 = atSecondPadding.padlen ∧
      atSecondPadding.line.toNat + 1 < atSecondPadding.h) ∧
    (atLastPadding.Inv ∧ atLastPadding.padcnt.toNat + 1 = atLastPadding.padlen ∧
      atLastPadding.line.toNat + 1 = atLastPadding.h ∧ atLastPadding.cfg.finalPadOptional = false) ∧
    (atOptionalPadding.Inv ∧ atOptionalPadding.phase = .pad ∧ atOptionalPadding.cfg.finalPadOptional = true ∧
      atOptionalPadding.line.toNat + 1 = atOptionalPadding.h) :=
  ⟨⟨witness_row_end_inv, by decide +kernel⟩, ⟨witness_unpadded_end_inv, by decide +kernel⟩,
    ⟨witness_last_pixel_inv, by decide +kernel⟩, ⟨witness_second_padding_inv, by decide +kernel⟩,
    ⟨witness_last_padding_inv, by decide +kernel⟩, witness_optional_padding_inv, by decide +kernel⟩

/-- Reset where the last padding is optional. -/
def optionalReset : State := State.resetFor { Config.reference with finalPadOptional := true }

theorem witness_ShortStreamWithOptionalFinalPadding :
    optionalReset.Inv ∧ optionalReset.busy = false ∧ optionalReset.cfg.finalPadOptional = true ∧
    (HeaderLegal optionalReset.cfg (smallFile.take 57) ∧
      (smallFile.take 57).length < need optionalReset.cfg (smallFile.take 57) ∧
      need optionalReset.cfg (smallFile.take 57) ≤
        (smallFile.take 57).length + filePadlen optionalReset.cfg (smallFile.take 57)) ∧
    (HeaderLegal optionalReset.cfg (smallFile.take 56) ∧
      (smallFile.take 56).length + filePadlen optionalReset.cfg (smallFile.take 56) <
        need optionalReset.cfg (smallFile.take 56)) :=
  ⟨inv_of_check (by decide +kernel), rfl, rfl, ⟨legal_of_check (by decide +kernel), by decide +kernel⟩,
    legal_of_check (by decide +kernel), by decide +kernel⟩

theorem witness_StreamShorterThanHeaderFails :
    State.reset.Inv ∧ State.reset.busy = false ∧ ([] : List Byte).length ≤ 1 ∧ ([0x58] : List Byte).length ≤ 1 ∧
    ((smallFile.take 53).length < 54 ∧ byteAt (smallFile.take 53) 0 = 0x42 ∧ byteAt (smallFile.take 53) 1 = 0x4D) :=
  ⟨witness_reset_inv, rfl, by decide, by decide, by decide +kernel⟩

end Sys2Proof.Tests
end

section
/-! SUPPORT. The event of one clock edge by priority (R42), and the statement O3 about it. -/

namespace Sys2Proof

/-! ### One equation per priority level -/

theorem decodeEdge_reset {busy : Bool} {p : Pins} (hr : p.rst = true) : decodeEdge busy p = .ok .reset :=
  if_pos hr

theorem decodeEdge_start {p : Pins} (hr : p.rst = false) (hs : p.start = true) :
    decodeEdge false p = .ok .start := by
  simp [decodeEdge, hr, hs]

theorem decodeEdge_accepted {p : Pins} (hr : p.rst = false) (hv : p.inValid = true) :
    decodeEdge true p = .ok (if p.inEos then .eos else .byte p.inData) := by
  simp [decodeEdge, hr, hv]

/-- While BUSY an edge without a beat carries no event, `start` or not (R42, R92). -/
theorem decodeEdge_busy_noBeat {p : Pins} (hr : p.rst = false) (hv : p.inValid = false) :
    decodeEdge true p = .error (if p.start then .startWhileBusy else .idleEdge) := by
  cases hs : p.start <;> simp [decodeEdge, hr, hv, hs]

/-- Outside BUSY an edge without `start` carries no event: a beat is not accepted (R41, R95). -/
theorem decodeEdge_notBusy_noStart {p : Pins} (hr : p.rst = false) (hs : p.start = false) :
    decodeEdge false p = .error (if p.inValid then .beatNotReady else .idleEdge) := by
  cases hv : p.inValid <;> simp [decodeEdge, hr, hv, hs]

/-- An edge decodes to its event, refined by the sequencer's position. -/
theorem decode_edge (sel : Selector) (p : Pins) :
    decode sel (.edge p) = (decodeEdge sel.phase.busy p).map (refine sel) := rfl

/-- Settles O3, one equation of `decodeEdge` for each level of the priority. -/
theorem eventOfAnEdgeByPriority : Obligations.EventOfAnEdgeByPriority := by
  intro sel p
  simp only [decode_edge]
  refine ⟨fun hr => ?reset, fun hr hs hb => ?start, fun hr hb hv => ?accepted, fun hr hb hv => ?noBeat,
    fun hr hb hs => ?noStart⟩
  case reset => rw [decodeEdge_reset hr]; rfl
  case start => rw [hb, decodeEdge_start hr hs]; rfl
  case accepted =>
    rw [hb, decodeEdge_accepted hr hv]
    cases p.inEos <;> rfl
  case noBeat => rw [hb, decodeEdge_busy_noBeat hr hv]; exact ⟨_, rfl⟩
  case noStart => rw [hb, decodeEdge_notBusy_noStart hr hs]; exact ⟨_, rfl⟩

end Sys2Proof
end

section
/-! SUPPORT. A stretch of a stream that the block accepts whole (R41, R44), and what it says of a load. -/

namespace Sys2Proof.Machine

/-- The block accepts every byte of a stretch of the stream, in order, and ends in the second state. -/
inductive Takes : State → List Byte → State → Prop where
  | nil (s : State) : Takes s [] s
  | cons {s u t : State} {b : Byte} {rest : List Byte} (hb : s.busy = true) (hu : exec (.byte b) s = .next u)
      (ht : Takes u rest t) : Takes s (b :: rest) t

theorem Takes.append {s u t : State} {g r : List Byte} (hg : Takes s g u) (hr : Takes u r t) :
    Takes s (g ++ r) t := by
  induction hg with
  | nil s => exact hr
  | cons hb hu _ ih => exact .cons hb hu (ih hr)

theorem Takes.snoc {s u t : State} {g : List Byte} {b : Byte} (hg : Takes s g u) (hb : u.busy = true)
    (ht : exec (.byte b) u = .next t) : Takes s (g ++ [b]) t :=
  hg.append (.cons hb ht (.nil t))

/-- The bytes a stretch takes are delivered, and the rest of the stream meets the state it ends in (R44). -/
theorem Takes.deliver_append {s t : State} {g : List Byte} (h : Takes s g t) (r : List Byte) :
    deliver (g ++ r) s = deliver r t := by
  induction h with
  | nil s => rfl
  | cons hb hu _ ih => simpa [deliver, hb, hu, andThen] using ih

/-- The bytes a stretch takes are counted (R98). -/
theorem Takes.consumed_append {s t : State} {g : List Byte} (h : Takes s g t) (r : List Byte) :
    consumed (g ++ r) s = g.length + consumed r t := by
  induction h with
  | nil s => simp
  | cons hb hu _ ih =>
    simp only [List.cons_append, consumed, hb, hu, ih, List.length_cons, if_true]
    omega

/-- Outside BUSY nothing more of the stream is an event (R41, R50). -/
theorem deliver_notBusy {s : State} (h : s.busy = false) (r : List Byte) : deliver r s = .next s := by
  cases r <;> simp [deliver, h]

theorem consumed_notBusy {s : State} (h : s.busy = false) (r : List Byte) : consumed r s = 0 := by
  cases r <;> simp [consumed, h]

theorem exec_start_notBusy {s : State} (h : s.busy = false) : exec .start s = .next s.beginLoad := by
  show execStart s = _
  simp [execStart, h]

theorem load_notBusy {s : State} (h : s.busy = false) (f : List Byte) : load f s = deliver f s.beginLoad := by
  simp [load, exec_start_notBusy h, andThen]

end Sys2Proof.Machine
end

section
/-! SUPPORT. The 54 header bytes of a stream, one state per offset (R96), up to the judgement of the last one (R141, R144). -/

namespace Sys2Proof.Machine

/-- `HDR` after the first `k` bytes of a stream (R12, R96). -/
def headerBytes (f : List Byte) (k : Nat) : Vector Byte 54 :=
  Vector.ofFn fun j => if j.val < k then byteAt f j.val else 0

theorem headerBytes_zero (f : List Byte) : headerBytes f 0 = Vector.replicate 54 0 := by
  ext i hi
  simp [headerBytes]

theorem headerBytes_set (f : List Byte) (k : Nat) :
    (headerBytes f k).setIfInBounds k (byteAt f k) = headerBytes f (k + 1) := by
  ext i hi
  by_cases hk : k = i
  · simp [headerBytes, hk]
  · simp [headerBytes, hk, show i < k ↔ i < k + 1 by omega]

/-- The block with the first `k < 54` header bytes of a stream captured, nothing yet refused. -/
def State.headerRead (s : State) (f : List Byte) (k : Nat) : State :=
  { s.beginLoad with
    phase := if k < 14 then .fhdr else .ihdr, hoff := BitVec.ofNat 6 k, hdr := headerBytes f k }

/-- The block with the whole header captured, about to judge it: HOFF still at the last byte (R96). -/
def State.headerWhole (s : State) (f : List Byte) : State := { s.headerRead f 53 with hdr := headerBytes f 54 }

/-- The block at the first byte of the rows of a stream whose header it accepted (R144). -/
def State.rowsBegin (s : State) (f : List Byte) : State :=
  { s.headerWhole f with npix := fileW f * fileH f, line := 0, col := 0, kb := 0, padcnt := 0, phase := .pix }

theorem State.headerRead_zero (s : State) (f : List Byte) : s.headerRead f 0 = s.beginLoad := by
  simp [State.headerRead, headerBytes_zero, State.beginLoad]

theorem State.headerRead_hoff_toNat (s : State) (f : List Byte) {k : Nat} (hk : k < 54) :
    (s.headerRead f k).hoff.toNat = k := by
  simp [State.headerRead]
  omega

theorem State.headerRead_phase (s : State) (f : List Byte) (k : Nat) :
    (s.headerRead f k).phase = .fhdr ∨ (s.headerRead f k).phase = .ihdr := by
  by_cases hk : k < 14 <;> simp [State.headerRead, hk]

theorem State.headerRead_busy (s : State) (f : List Byte) (k : Nat) : (s.headerRead f k).busy = true := by
  rcases s.headerRead_phase f k with h | h <;> simp [State.busy, h, Phase.busy]

theorem State.headerRead_capture (s : State) (f : List Byte) {k : Nat} (hk : k < 54) :
    (s.headerRead f k).capture (byteAt f k) = { s.headerRead f k with hdr := headerBytes f (k + 1) } := by
  rw [State.capture, s.headerRead_hoff_toNat f hk]
  simp only [State.headerRead, headerBytes_set]

/-- A byte in FHDR or IHDR is captured and judged (R95, R96). -/
theorem exec_byte_header {s : State} (h : s.phase = .fhdr ∨ s.phase = .ihdr) (b : Byte) :
    exec (.byte b) s = settle (s.capture b) (afterCapture b (s.capture b)) := by
  show execByte b s = _
  rcases h with h | h <;> simp [execByte, h, headerByte]

/-- A byte read from the stream into `HDR` (R12). -/
theorem State.hdrAt_headerBytes {t : State} {f : List Byte} {k j : Nat} (ht : t.hdr = headerBytes f k) (hj : j < k)
    (hk : k ≤ 54) : t.hdrAt j = byteAt f j := by
  simp [State.hdrAt, ht, headerBytes, hj, show j < 54 by omega]

/-! ### What follows a capture, by HOFF (R96) -/

theorem afterCapture_plain {s : State} (b : Byte) (h1 : s.hoff.toNat ≠ 1) (h13 : s.hoff.toNat ≠ 13)
    (h53 : s.hoff.toNat < 53) : afterCapture b s = .ok { s with hoff := s.hoff + 1 } := by
  have hne (v : BitVec 6) (hv : s.hoff.toNat ≠ v.toNat) : s.hoff ≠ v := fun h => hv (congrArg _ h)
  rw [afterCapture, if_neg (hne 1 h1), if_neg (hne 13 h13), if_neg (hne 53 (Nat.ne_of_lt h53)), if_pos h53]

theorem afterCapture_signature {s : State} (h1 : s.hoff = 1) (h0 : s.hdrAt 0 = 0x42) :
    afterCapture 0x4D s = .ok { s with hoff := s.hoff + 1 } := by
  simp [afterCapture, sigchk, h1, h0]

theorem afterCapture_infoHeader {s : State} (b : Byte) (h13 : s.hoff = 13) :
    afterCapture b s = .ok { s with phase := .ihdr, hoff := s.hoff + 1 } := by
  simp [afterCapture, h13]

theorem afterCapture_last {s : State} (b : Byte) (h53 : s.hoff = 53) :
    afterCapture b s = (validate s).bind alloc := by
  simp [afterCapture, h53]

/-- One header byte before the last, the signature's second byte being good (R96, R116). -/
theorem exec_byte_headerRead (s : State) {f : List Byte} {k : Nat} (hk : k < 53)
    (hsig : k = 1 → byteAt f 0 = 0x42 ∧ byteAt f 1 = 0x4D) :
    exec (.byte (byteAt f k)) (s.headerRead f k) = .next (s.headerRead f (k + 1)) := by
  rw [exec_byte_header (s.headerRead_phase f k), s.headerRead_capture f (by omega)]
  have hoff := s.headerRead_hoff_toNat f (show k < 54 by omega)
  by_cases h1 : k = 1
  · subst h1
    obtain ⟨h0, hM⟩ := hsig rfl
    have hB := State.hdrAt_headerBytes (t := { s.headerRead f 1 with hdr := headerBytes f 2 }) (j := 0) rfl
      (by omega) (by omega)
    rw [hM, afterCapture_signature rfl (hB.trans h0)]
    rfl
  by_cases h13 : k = 13
  · subst h13
    rw [afterCapture_infoHeader _ rfl]
    rfl
  · rw [afterCapture_plain _ (by rw [hoff]; exact h1) (by rw [hoff]; exact h13) (by rw [hoff]; exact hk)]
    simp [State.headerRead, BitVec.ofNat_add, show k < 14 ↔ k + 1 < 14 by omega]

/-- A stretch of a stream one byte longer. -/
theorem take_succ_eq_snoc_byteAt {f : List Byte} {k : Nat} (hk : k < f.length) :
    f.take (k + 1) = f.take k ++ [byteAt f k] := by
  rw [List.take_succ_eq_append_getElem hk, byteAt, List.getD_eq_getElem?_getD, List.getElem?_eq_getElem hk, Option.getD_some]

/-- The header bytes before the last are taken one by one (R96). -/
theorem takes_headerRead (s : State) {f : List Byte} {k : Nat} (hk : k ≤ 53) (hlen : k ≤ f.length)
    (hsig : 2 ≤ k → byteAt f 0 = 0x42 ∧ byteAt f 1 = 0x4D) :
    Takes s.beginLoad (f.take k) (s.headerRead f k) := by
  induction k with
  | zero =>
    rw [s.headerRead_zero f]
    exact .nil _
  | succ k ih =>
    rw [take_succ_eq_snoc_byteAt hlen]
    exact (ih (by omega) (by omega) fun h => hsig (by omega)).snoc (s.headerRead_busy f k)
      (exec_byte_headerRead s hk fun h => hsig (by omega))

/-! ### The fields of a whole header are the stream's (R13, R63) -/

theorem State.headerWhole_hdrAt (s : State) (f : List Byte) {j : Nat} (hj : j < 54) :
    (s.headerWhole f).hdrAt j = byteAt f j :=
  State.hdrAt_headerBytes rfl hj (Nat.le_refl _)

theorem State.headerWhole_le16 (s : State) (f : List Byte) {i : Nat} (hi : i + 1 < 54) :
    ((s.headerWhole f).le16 i).toNat = fileLe16 f i := by
  rw [State.le16_toNat, s.headerWhole_hdrAt f (by omega), s.headerWhole_hdrAt f hi]
  rfl

theorem State.headerWhole_le32 (s : State) (f : List Byte) {i : Nat} (hi : i + 3 < 54) :
    ((s.headerWhole f).le32 i).toNat = fileLe32 f i := by
  rw [State.le32_toNat, s.headerWhole_hdrAt f (by omega), s.headerWhole_hdrAt f (by omega),
    s.headerWhole_hdrAt f (by omega), s.headerWhole_hdrAt f hi]
  rfl

@[simp] theorem State.headerWhole_w (s : State) (f : List Byte) : (s.headerWhole f).w = fileW f :=
  s.headerWhole_le32 f (by omega)

@[simp] theorem State.headerWhole_h (s : State) (f : List Byte) : (s.headerWhole f).h = fileH f :=
  s.headerWhole_le32 f (by omega)

@[simp] theorem State.headerWhole_bpp_toNat (s : State) (f : List Byte) :
    (s.headerWhole f).bpp.toNat = fileLe16 f 28 :=
  s.headerWhole_le16 f (by omega)

@[simp] theorem State.headerWhole_compr_toNat (s : State) (f : List Byte) :
    (s.headerWhole f).compr.toNat = fileLe32 f 30 :=
  s.headerWhole_le32 f (by omega)

@[simp] theorem State.headerWhole_bytesPerPixel (s : State) (f : List Byte) :
    (s.headerWhole f).bytesPerPixel = fileB f :=
  congrArg (· / 8) (s.headerWhole_bpp_toNat f)

theorem State.headerWhole_padlen (s : State) (f : List Byte) : (s.headerWhole f).padlen = filePadlen s.cfg f := by
  rw [State.padlen, s.headerWhole_w, s.headerWhole_bytesPerPixel]
  rfl

/-! ### The judgement of the last header byte (R141, R144) -/

theorem exec_byte_lastHeader (s : State) (f : List Byte) :
    exec (.byte (byteAt f 53)) (s.headerRead f 53) =
      settle (s.headerWhole f) ((validate (s.headerWhole f)).bind alloc) := by
  rw [exec_byte_header (s.headerRead_phase f 53), s.headerRead_capture f (by omega)]
  exact congrArg _ (afterCapture_last _ rfl)

theorem validate_valid {s : State} (h : s.headerValid) : validate s = .ok s := by
  obtain ⟨hw, hh, hbpp, hcompr⟩ := h
  have hdepth : ¬(s.bpp ≠ 24 ∧ s.bpp ≠ 32) := fun ⟨h24, h32⟩ => hbpp.elim h24 h32
  rw [validate, if_neg (not_or.mpr ⟨hw, hh⟩), if_neg hdepth, if_neg fun hne => hne hcompr]

theorem alloc_fits {s : State} (h : s.sizeFits) :
    alloc s = .ok { s with npix := s.w * s.h, line := 0, col := 0, kb := 0, padcnt := 0, phase := .pix } := by
  obtain ⟨hsz, hcap⟩ := h
  rw [alloc, mulSize_eq, if_neg (by omega)]
  exact if_neg (by omega)

/-- A product that fits the store fits SZ bits (R4). -/
theorem lt_two_pow_of_le_cap {p : Config.Params} (hp : p.wf = true) {n : Nat} (hn : n ≤ p.cap) :
    n < 2 ^ p.sz := by
  have hpos : 0 < 2 ^ p.sz := Nat.two_pow_pos p.sz
  simp only [Config.Params.wf, Bool.and_eq_true, decide_eq_true_eq] at hp
  obtain ⟨-, hcap⟩ := hp
  rw [Config.Params.maxsz] at hcap
  omega

theorem HeaderLegal.depth_bpp {cfg : Config.Params} {f : List Byte} (h : HeaderLegal cfg f) (s : State) :
    (s.headerWhole f).bpp = 24 ∨ (s.headerWhole f).bpp = 32 :=
  h.depth.imp (fun h => BitVec.eq_of_toNat_eq ((s.headerWhole_bpp_toNat f).trans h))
    (fun h => BitVec.eq_of_toNat_eq ((s.headerWhole_bpp_toNat f).trans h))

theorem HeaderLegal.headerValid {cfg : Config.Params} {f : List Byte} (h : HeaderLegal cfg f) (s : State) :
    (s.headerWhole f).headerValid := by
  obtain ⟨hw, hh⟩ := h.dimensions
  refine ⟨fun h0 => hw ?_, fun h0 => hh ?_, h.depth_bpp s, BitVec.eq_of_toNat_eq ?_⟩
  · exact (s.headerWhole_w f).symm.trans (congrArg BitVec.toNat h0)
  · exact (s.headerWhole_h f).symm.trans (congrArg BitVec.toNat h0)
  · exact (s.headerWhole_compr_toNat f).trans h.compression

theorem HeaderLegal.sizeFits {s : State} {f : List Byte} (h : HeaderLegal s.cfg f) (hp : s.cfg.wf = true) :
    (s.headerWhole f).sizeFits := by
  have hfit : (s.headerWhole f).w * (s.headerWhole f).h ≤ s.cfg.cap := by simpa using h.fits
  exact ⟨lt_two_pow_of_le_cap hp hfit, hfit⟩

/-- A legal header is taken whole and the rows begin (R96, R144). -/
theorem takes_legalHeader {s : State} {f : List Byte} (h : HeaderLegal s.cfg f) (hp : s.cfg.wf = true) :
    Takes s.beginLoad (f.take 54) (s.rowsBegin f) := by
  have hlen := h.whole
  rw [take_succ_eq_snoc_byteAt hlen]
  refine (takes_headerRead s (Nat.le_refl 53) (by omega) fun _ => h.signature).snoc (s.headerRead_busy f 53) ?_
  rw [exec_byte_lastHeader, validate_valid (h.headerValid s), Effect.bind_ok, alloc_fits (h.sizeFits hp),
    settle_ok, State.headerWhole_w, State.headerWhole_h]
  rfl

end Sys2Proof.Machine
end

section
/-! SUPPORT. The scanline loop counted in bytes (R48, R160): each accepted byte moves the position in the rows by one, until the
byte after which the image is committed. -/

namespace Sys2Proof.Machine

/-! ### What the scanline loop keeps -/

/-- `ROWBYTES` by the captured header (R48). -/
def State.rowBytes (s : State) : Nat := s.w * s.bytesPerPixel + s.padlen

/-- The bytes of all rows by the captured header (R48). -/
def State.allRowBytes (s : State) : Nat := s.h * s.rowBytes

/-- The bytes of the current row that are already taken (R160, R162, R171). -/
def State.rowPos (s : State) : Nat :=
  if s.phase = .pad then s.w * s.bytesPerPixel + s.padcnt.toNat else s.col.toNat * s.bytesPerPixel + s.kb.toNat

/-- The bytes of the rows that are already taken. -/
def State.scanned (s : State) : Nat := s.line.toNat * s.rowBytes + s.rowPos

/-- A header that ALLOC accepted, with its size in NPIX (R144). -/
structure State.Sized (s : State) : Prop where
  parameters : s.cfg.wf = true
  dimensions : 1 ≤ s.w ∧ 1 ≤ s.h
  depth : s.bpp = 24 ∨ s.bpp = 32
  product : s.npix = s.w * s.h
  fits : s.npix ≤ s.cfg.cap

/-- A position in the scanline loop: a pixel byte or a padding byte of one of the rows (R30 (c) to (e)). -/
structure State.Scanning (s : State) : Prop extends s.Sized where
  line : s.line.toNat < s.h
  place : (s.phase = .pix ∧ s.col.toNat < s.w ∧ s.kb.toNat < s.bytesPerPixel) ∨
    (s.phase = .pad ∧ s.padcnt.toNat < s.padlen ∧ s.col = 0 ∧ s.kb = 0)

/-- Two states with the same header, size and parameters, on which all the loop's bounds depend. -/
structure State.SameSize (s t : State) : Prop where
  cfg : t.cfg = s.cfg
  hdr : t.hdr = s.hdr
  npix : t.npix = s.npix

theorem State.SameSize.refl (s : State) : s.SameSize s := ⟨rfl, rfl, rfl⟩

theorem State.SameSize.trans {s t u : State} (h : s.SameSize t) (h' : t.SameSize u) : s.SameSize u :=
  ⟨h'.cfg.trans h.cfg, h'.hdr.trans h.hdr, h'.npix.trans h.npix⟩

section
variable {s t : State} (e : s.SameSize t)
include e

theorem State.SameSize.hdrAt (j : Nat) : t.hdrAt j = s.hdrAt j := by simp only [State.hdrAt, e.hdr]

theorem State.SameSize.w : t.w = s.w := by simp only [State.w, State.width, State.le32, e.hdrAt]

theorem State.SameSize.h : t.h = s.h := by simp only [State.h, State.height, State.le32, e.hdrAt]

theorem State.SameSize.bpp : t.bpp = s.bpp := by simp only [State.bpp, State.le16, e.hdrAt]

theorem State.SameSize.bytesPerPixel : t.bytesPerPixel = s.bytesPerPixel := by simp only [State.bytesPerPixel, e.bpp]

theorem State.SameSize.padlen : t.padlen = s.padlen := by
  simp only [State.padlen, e.w, e.bytesPerPixel, e.cfg]

theorem State.SameSize.rowBytes : t.rowBytes = s.rowBytes := by
  simp only [State.rowBytes, e.w, e.bytesPerPixel, e.padlen]

theorem State.SameSize.allRowBytes : t.allRowBytes = s.allRowBytes := by
  simp only [State.allRowBytes, e.h, e.rowBytes]

theorem State.SameSize.sized (h : s.Sized) : t.Sized where
  parameters := by rw [e.cfg]; exact h.parameters
  dimensions := by rw [e.w, e.h]; exact h.dimensions
  depth := by rw [e.bpp]; exact h.depth
  product := by rw [e.w, e.h, e.npix]; exact h.product
  fits := by rw [e.npix, e.cfg]; exact h.fits

end

/-- The invariant puts the scanline loop at such a position (R30). -/
theorem State.Inv.scanning {s : State} (h : s.Inv) (hr : s.inRows) : s.Scanning := by
  obtain ⟨hw, hh, hbpp, -, hn, hl⟩ := h.validated hr
  refine ⟨⟨h.parameters, ⟨hw, hh⟩, hbpp, hn, h.sized⟩, hl, hr.imp (fun hp => ?_) (fun hp => ?_)⟩
  · obtain ⟨hcol, hkb, -⟩ := h.pixel hp
    exact ⟨hp, hcol, hkb⟩
  · obtain ⟨-, hcnt, hcol, hkb⟩ := h.padding hp
    exact ⟨hp, hcnt, hcol, hkb⟩

theorem State.Scanning.busy {s : State} (h : s.Scanning) : s.busy = true := by
  rcases h.place with ⟨hp, -⟩ | ⟨hp, -⟩ <;> simp [State.busy, hp, Phase.busy]

theorem State.rowPos_pix {s : State} (hp : s.phase = .pix) :
    s.rowPos = s.col.toNat * s.bytesPerPixel + s.kb.toNat := by
  simp [State.rowPos, hp]

theorem State.rowPos_pad {s : State} (hp : s.phase = .pad) :
    s.rowPos = s.w * s.bytesPerPixel + s.padcnt.toNat := by
  simp [State.rowPos, hp]

/-- A pixel of a row, or a row of the image, ends where the row, or the image, does at the latest (R160). -/
theorem mul_add_le_mul_of_lt {i n : Nat} (h : i < n) (size : Nat) : i * size + size ≤ n * size := by
  rw [← Nat.succ_mul]
  exact Nat.mul_le_mul_right size h

/-- A row still has a byte to come. -/
theorem State.Scanning.rowPos_lt {s : State} (h : s.Scanning) : s.rowPos < s.rowBytes := by
  rw [State.rowBytes]
  rcases h.place with ⟨hp, hcol, hkb⟩ | ⟨hp, hcnt, -⟩
  · have := mul_add_le_mul_of_lt hcol s.bytesPerPixel
    rw [State.rowPos_pix hp]
    omega
  · rw [State.rowPos_pad hp]
    omega

/-- The rows still have a byte to come. -/
theorem State.Scanning.scanned_lt {s : State} (h : s.Scanning) : s.scanned < s.allRowBytes := by
  have := h.rowPos_lt
  have := mul_add_le_mul_of_lt h.line s.rowBytes
  rw [State.scanned, State.allRowBytes]
  omega

theorem State.Sized.bytesPerPixel {s : State} (h : s.Sized) : s.bytesPerPixel = 3 ∨ s.bytesPerPixel = 4 :=
  h.depth.imp (fun h => by rw [State.bytesPerPixel, h]; rfl) (fun h => by rw [State.bytesPerPixel, h]; rfl)

theorem State.padlen_le (s : State) : s.padlen ≤ 3 := by
  rw [State.padlen, padding]
  omega

/-! ### What the parts of a step do there -/

/-- The counters of the loop do not wrap (R19, R20). -/
theorem toNat_add_one {n : Nat} {x : BitVec (n + 1)} (h : x.toNat + 1 < 2 ^ (n + 1)) : (x + 1).toNat = x.toNat + 1 :=
  (BitVec.toNat_add_of_lt (by simpa using h)).trans (by simp)

theorem State.toNat_line_add_one {s : State} (h : s.line.toNat + 1 < s.h) : (s.line + 1).toNat = s.line.toNat + 1 :=
  toNat_add_one (Nat.lt_trans h s.height.isLt)

theorem State.toNat_col_add_one {s : State} (h : s.col.toNat + 1 < s.w) : (s.col + 1).toNat = s.col.toNat + 1 :=
  toNat_add_one (Nat.lt_trans h s.width.isLt)

theorem State.toNat_padcnt_add_one {s : State} (h : s.padcnt.toNat + 1 < s.padlen) :
    (s.padcnt + 1).toNat = s.padcnt.toNat + 1 :=
  toNat_add_one (Nat.lt_of_lt_of_le h (Nat.le_succ_of_le s.padlen_le))

/-- FINALIZE commits an image that ALLOC sized (R174). -/
theorem finalize_sized {s : State} (h : s.Sized) :
    finalize s = .ok { s with
      active := !s.active, imgW := s.width, imgH := s.height, imgLen := s.npix, imgValid := true, phase := .done } := by
  obtain ⟨hw, hh⟩ := h.dimensions
  have hpos : 0 < s.npix := h.product ▸ Nat.mul_pos hw hh
  have hfit : s.w * s.h < 2 ^ s.cfg.sz := h.product ▸ lt_two_pow_of_le_cap h.parameters h.fits
  rw [finalize_eq, if_pos ⟨hpos, hfit, Nat.le_of_eq h.product.symm⟩]

/-- The memory row of a file row ends inside the image (R165). -/
theorem State.Scanning.memoryRow_le {s : State} (h : s.Scanning) :
    (s.h - 1 - s.line.toNat) * s.w + s.w ≤ s.npix := by
  have hl := h.line
  rw [h.product, Nat.mul_comm s.w]
  exact mul_add_le_mul_of_lt (by omega) s.w

/-- The row guard lets every row of the image pass (R161). -/
theorem rowchkAtStart_scanning {s : State} (h : s.Scanning) : rowchkAtStart s = .ok s := by
  have hB := h.bytesPerPixel
  have hrow := h.memoryRow_le
  have hchk : rowchk s = .ok s := by
    rw [rowchk, if_neg (by omega)]
  simp only [rowchkAtStart, hchk, ite_self]

/-- The word of the pixel under way is in the store (R165). -/
theorem State.Scanning.pixelAddr_lt {s : State} (h : s.Scanning) (hcol : s.col.toNat < s.w) :
    s.pixelAddr < s.cfg.cap := by
  have hrow := h.memoryRow_le
  have hfit := h.fits
  rw [State.pixelAddr]
  omega

/-! ### One byte of the rows -/

/-- What an accepted byte of the rows does to the position: one byte on, or, after the last byte, DONE. -/
structure State.Advances (s t : State) : Prop where
  sameSize : s.SameSize t
  moves : (t.Scanning ∧ t.scanned = s.scanned + 1) ∨ (t.phase = .done ∧ s.scanned + 1 = s.allRowBytes)

/-- A later position in the same row. -/
theorem State.Scanning.advances_in_row {s t : State} (h : s.Scanning) (e : s.SameSize t) (hline : t.line = s.line)
    (hplace : (t.phase = .pix ∧ t.col.toNat < s.w ∧ t.kb.toNat < s.bytesPerPixel) ∨
      (t.phase = .pad ∧ t.padcnt.toNat < s.padlen ∧ t.col = 0 ∧ t.kb = 0))
    (hpos : t.rowPos = s.rowPos + 1) : s.Advances t := by
  refine ⟨e, .inl ⟨⟨e.sized h.toSized, ?_, ?_⟩, ?_⟩⟩
  · rw [hline, e.h]
    exact h.line
  · rw [e.w, e.bytesPerPixel, e.padlen]
    exact hplace
  · rw [State.scanned, State.scanned, e.rowBytes, hline, hpos]
    omega

/-- The end of a row goes to the next row, or commits the image after the last (R172). -/
theorem rowend_advances {s u : State} (h : s.Scanning) (e : s.SameSize u) (hline : u.line = s.line)
    (hcol : u.col = 0) (hkb : u.kb = 0) (hlast : s.rowPos + 1 = s.rowBytes) :
    ∃ t, rowend u = .ok t ∧ s.Advances t := by
  have hscanned : s.scanned + 1 = (s.line.toNat + 1) * s.rowBytes := by
    rw [State.scanned, Nat.succ_mul]
    omega
  rcases rowend_cases u with ⟨hmore, hu⟩ | ⟨hno, hu⟩
  · have hlineNat : (u.line + 1).toNat = s.line.toNat + 1 := by rw [State.toNat_line_add_one hmore, hline]
    have et : s.SameSize { u with line := u.line + 1, phase := .pix } := ⟨e.cfg, e.hdr, e.npix⟩
    refine ⟨_, hu, et, .inl ⟨⟨et.sized h.toSized, ?_, .inl ⟨rfl, ?_, ?_⟩⟩, ?_⟩⟩
    · rw [et.h, ← e.h, hlineNat, ← hline]
      exact hmore
    · rw [et.w, hcol]
      exact h.dimensions.1
    · have hB := h.bytesPerPixel
      rw [et.bytesPerPixel, hkb]
      exact Nat.lt_of_lt_of_le (by decide) (show 3 ≤ s.bytesPerPixel by omega)
    · rw [hscanned, State.scanned, State.rowPos_pix rfl, et.rowBytes, hlineNat, hcol, hkb]
      simp
  · refine ⟨_, hu.trans (finalize_sized (e.sized h.toSized)), ⟨e.cfg, e.hdr, e.npix⟩, .inr ⟨rfl, ?_⟩⟩
    have hl := h.line
    rw [e.h, hline] at hno
    rw [hscanned, State.allRowBytes, show s.line.toNat + 1 = s.h by omega]

/-- After the last byte of a pixel: the next pixel, the padding, or the end of the row (R165). -/
theorem nextColumn_advances {s u : State} (h : s.Scanning) (hp : s.phase = .pix) (hcol : s.col.toNat < s.w)
    (hkb : s.kb.toNat + 1 = s.bytesPerPixel) (e : s.SameSize u) (hu : u.phase = .pix ∧ u.line = s.line ∧ u.col = s.col) :
    ∃ t, nextColumn u = .ok t ∧ s.Advances t := by
  obtain ⟨hup, huline, hucol⟩ := hu
  have hpos : s.rowPos + 1 = (s.col.toNat + 1) * s.bytesPerPixel := by
    rw [State.rowPos_pix hp, Nat.succ_mul]
    omega
  rcases nextColumn_cases u with ⟨hmore, hn⟩ | ⟨hlast, hpad, hn⟩ | ⟨hlast, hpad, hn⟩
  · have hcolNat : (u.col + 1).toNat = s.col.toNat + 1 := by rw [State.toNat_col_add_one hmore, hucol]
    have et : s.SameSize { u with kb := 0, col := u.col + 1 } := ⟨e.cfg, e.hdr, e.npix⟩
    refine ⟨_, hn, h.advances_in_row et huline (.inl ⟨hup, ?_, ?_⟩) ?_⟩
    · rw [hcolNat, ← e.w, ← hucol]
      exact hmore
    · exact Nat.lt_of_lt_of_eq (Nat.zero_lt_succ _) hkb
    · refine (State.rowPos_pix (by exact hup)).trans ?_
      rw [hpos, et.bytesPerPixel, hcolNat]
      simp
  · have et : s.SameSize { u with kb := 0, col := 0, phase := .pad, padcnt := 0 } := ⟨e.cfg, e.hdr, e.npix⟩
    rw [e.padlen] at hpad
    rw [e.w, hucol] at hlast
    refine ⟨_, hn, h.advances_in_row et huline (.inr ⟨rfl, hpad, rfl, rfl⟩) ?_⟩
    rw [hpos, State.rowPos_pad rfl, et.w, et.bytesPerPixel, show s.col.toNat + 1 = s.w by omega]
    simp
  · rw [e.padlen] at hpad
    rw [e.w, hucol] at hlast
    rw [hn]
    refine rowend_advances h ⟨e.cfg, e.hdr, e.npix⟩ huline rfl rfl ?_
    rw [hpos, State.rowBytes, hpad, show s.col.toNat + 1 = s.w by omega]
    rfl

/-- The last byte of a pixel stores it and advances (R165). -/
theorem pixdone_advances {s : State} (h : s.Scanning) (hp : s.phase = .pix) (hcol : s.col.toNat < s.w)
    (hkb : s.kb.toNat + 1 = s.bytesPerPixel) (r g bl a : Byte) :
    ∃ t, pixdone r g bl a s = .ok t ∧ s.Advances t := by
  rcases pixdone_cases r g bl a s with ⟨-, hd⟩ | ⟨hcap, -⟩
  · rw [hd]
    exact nextColumn_advances h hp hcol hkb ⟨by simp, by simp, by simp⟩ ⟨by simpa using hp, by simp, by simp⟩
  · exact absurd (h.pixelAddr_lt hcol) (by omega)

/-- The byte of a pixel at the depth of the image (R163, R164). -/
def pixelByte (b : Byte) (s : State) : Effect := if s.bpp = 24 then pixel24Byte b s else pixel32Byte b s

/-- A byte in PIX, at either depth, once the row guard has passed. -/
theorem exec_byte_pix {s : State} (h : s.Scanning) (hp : s.phase = .pix) (b : Byte) :
    exec (.byte b) s = settle s (pixelByte b s) := by
  show execByte b s = _
  rcases h.depth with hbpp | hbpp <;>
    simp [execByte, execPix24, execPix32, pix24Step, pix32Step, pixelByte, hp, hbpp, rowchkAtStart_scanning h]

/-- A byte of a pixel before its last is kept and KB counts it; the last one finishes the pixel (R162 to R164). -/
theorem pixelByte_cases {s : State} (h : s.Scanning) (hkb : s.kb.toNat < s.bytesPerPixel) (b : Byte) :
    ((s.kb + 1).toNat = s.kb.toNat + 1 ∧ s.kb.toNat + 1 < s.bytesPerPixel ∧
      ∃ pb pg pr, pixelByte b s = .ok { s with kb := s.kb + 1, pxb := pb, pxg := pg, pxr := pr }) ∨
    (s.kb.toNat + 1 = s.bytesPerPixel ∧ ∃ r g bl a, pixelByte b s = pixdone r g bl a s) := by
  rcases h.depth with hbpp | hbpp
  · have hB : s.bytesPerPixel = 3 := by rw [State.bytesPerPixel, hbpp]; rfl
    rw [pixelByte, if_pos hbpp, hB]
    rcases pixel24Byte_cases b s with ⟨hk, hx⟩ | ⟨hk, hx⟩ | ⟨hk, hx⟩ | ⟨hk, hx⟩ <;> rw [hk]
    · exact .inl ⟨rfl, by decide, _, _, _, hx⟩
    · exact .inl ⟨rfl, by decide, _, _, _, hx⟩
    · exact .inr ⟨rfl, _, _, _, _, hx⟩
    · rw [hk, hB] at hkb
      exact absurd hkb (by decide)
  · have hB : s.bytesPerPixel = 4 := by rw [State.bytesPerPixel, hbpp]; rfl
    rw [pixelByte, if_neg (by rw [hbpp]; decide), hB]
    rcases pixel32Byte_cases b s with ⟨hk, hx⟩ | ⟨hk, hx⟩ | ⟨hk, hx⟩ | ⟨hk, hx⟩ <;> rw [hk]
    · exact .inl ⟨rfl, by decide, _, _, _, hx⟩
    · exact .inl ⟨rfl, by decide, _, _, _, hx⟩
    · exact .inl ⟨rfl, by decide, _, _, _, hx⟩
    · exact .inr ⟨rfl, _, _, _, _, hx⟩

/-- A byte in PIX advances. -/
theorem pixelByte_advances {s : State} (h : s.Scanning) (hp : s.phase = .pix) (hcol : s.col.toNat < s.w)
    (hkb : s.kb.toNat < s.bytesPerPixel) (b : Byte) : ∃ t, pixelByte b s = .ok t ∧ s.Advances t := by
  rcases pixelByte_cases h hkb b with ⟨hnext, hlt, pb, pg, pr, hx⟩ | ⟨hlast, r, g, bl, a, hx⟩
  · refine ⟨_, hx, h.advances_in_row ⟨rfl, rfl, rfl⟩ rfl (.inl ⟨hp, hcol, ?_⟩) ?_⟩
    · rw [hnext]
      exact hlt
    · refine (State.rowPos_pix (by exact hp)).trans ?_
      rw [State.rowPos_pix hp, hnext]
      rfl
  · rw [hx]
    exact pixdone_advances h hp hcol hlast r g bl a

/-- A padding byte advances (R171). -/
theorem padByte_advances {s : State} (h : s.Scanning) (hp : s.phase = .pad) (hcnt : s.padcnt.toNat < s.padlen)
    (hcol : s.col = 0) (hkb : s.kb = 0) : ∃ t, padByte s = .ok t ∧ s.Advances t := by
  rcases padByte_cases s with ⟨hmore, hb⟩ | ⟨hlast, hb⟩
  · have hcntNat := State.toNat_padcnt_add_one hmore
    refine ⟨_, hb, h.advances_in_row ⟨rfl, rfl, rfl⟩ rfl (.inr ⟨hp, ?_, hcol, hkb⟩) ?_⟩
    · rw [hcntNat]
      exact hmore
    · refine (State.rowPos_pad (by exact hp)).trans ?_
      rw [State.rowPos_pad hp, hcntNat]
      rfl
  · rw [hb]
    refine rowend_advances h ⟨rfl, rfl, rfl⟩ rfl hcol hkb ?_
    rw [State.rowPos_pad hp, State.rowBytes]
    omega

/-- Every byte of the rows is accepted, whatever its value, and moves the position by one (R95, R162, R171). -/
theorem exec_byte_scanning {s : State} (h : s.Scanning) (b : Byte) :
    ∃ t, exec (.byte b) s = .next t ∧ s.Advances t := by
  rcases h.place with ⟨hp, hcol, hkb⟩ | ⟨hp, hcnt, hcol, hkb⟩
  · obtain ⟨t, ht, hadv⟩ := pixelByte_advances h hp hcol hkb b
    exact ⟨t, by rw [exec_byte_pix h hp, ht, settle_ok], hadv⟩
  · obtain ⟨t, ht, hadv⟩ := padByte_advances h hp hcnt hcol hkb
    refine ⟨t, ?_, hadv⟩
    show execByte b s = _
    simp [execByte, execPadskip, hp, ht]

/-! ### The bytes of all rows -/

/-- A stretch no longer than what the rows still need is taken whole: the position moves by its length, and exactly at the
last byte the image is committed (R48, R160). -/
theorem takes_scanning {s : State} (h : s.Scanning) (g : List Byte) (hg : s.scanned + g.length ≤ s.allRowBytes) :
    ∃ t, Takes s g t ∧ s.SameSize t ∧
      ((t.Scanning ∧ t.scanned = s.scanned + g.length) ∨ (t.phase = .done ∧ s.scanned + g.length = s.allRowBytes)) := by
  induction g generalizing s with
  | nil => exact ⟨s, .nil s, .refl s, .inl ⟨h, rfl⟩⟩
  | cons b rest ih =>
    rw [List.length_cons] at hg ⊢
    obtain ⟨u, hu, e, hmoves⟩ := exec_byte_scanning h b
    rcases hmoves with ⟨hscan, hpos⟩ | ⟨hdone, hpos⟩
    · obtain ⟨t, ht, e', hend⟩ := ih hscan (by rw [hpos, e.allRowBytes]; omega)
      rw [hpos, e.allRowBytes, Nat.add_right_comm, Nat.add_assoc] at hend
      exact ⟨t, .cons h.busy hu ht, e.trans e', hend⟩
    · obtain rfl : rest = [] := List.eq_nil_of_length_eq_zero (by omega)
      exact ⟨u, .cons h.busy hu (.nil u), e, .inr ⟨hdone, hpos⟩⟩

/-- The bytes that the rows still need take the load to DONE. -/
theorem takes_rows_to_done {s : State} (h : s.Scanning) {g : List Byte} (hg : s.scanned + g.length = s.allRowBytes) :
    ∃ t, Takes s g t ∧ s.SameSize t ∧ t.phase = .done := by
  obtain ⟨t, ht, e, ⟨hscan, hpos⟩ | ⟨hdone, -⟩⟩ := takes_scanning h g (Nat.le_of_eq hg)
  · have hlt := hscan.scanned_lt
    rw [e.allRowBytes] at hlt
    omega
  · exact ⟨t, ht, e, hdone⟩

end Sys2Proof.Machine
end

section
/-! SUPPORT. A good load, from START to the commit (R48, R50), and the statement O52 about it. -/

namespace Sys2Proof.Machine

theorem HeaderLegal.rowsBegin_sized {s : State} {f : List Byte} (h : HeaderLegal s.cfg f) (hp : s.cfg.wf = true) :
    (s.rowsBegin f).Sized where
  parameters := hp
  dimensions := by
    obtain ⟨hw, hh⟩ := h.dimensions
    exact ⟨Nat.lt_of_lt_of_eq (Nat.pos_of_ne_zero hw) (s.headerWhole_w f).symm,
      Nat.lt_of_lt_of_eq (Nat.pos_of_ne_zero hh) (s.headerWhole_h f).symm⟩
  depth := h.depth_bpp s
  product := by
    have hprod : (s.headerWhole f).w * (s.headerWhole f).h = fileW f * fileH f := by
      rw [s.headerWhole_w, s.headerWhole_h]
    exact hprod.symm
  fits := h.fits

/-- The rows of a legal header begin at their first byte. -/
theorem HeaderLegal.scanning {s : State} {f : List Byte} (h : HeaderLegal s.cfg f) (hp : s.cfg.wf = true) :
    (s.rowsBegin f).Scanning := by
  have hs := h.rowsBegin_sized hp
  obtain ⟨hw, hh⟩ := hs.dimensions
  have hB := hs.bytesPerPixel
  exact ⟨hs, hh, .inl ⟨rfl, hw, Nat.pos_of_ne_zero (by omega)⟩⟩

theorem State.rowsBegin_scanned (s : State) (f : List Byte) : (s.rowsBegin f).scanned = 0 := by
  simp [State.scanned, State.rowPos, State.rowsBegin]

/-- NEED counts the header and the bytes of all rows (R48). -/
theorem need_eq_allRowBytes (s : State) (f : List Byte) : need s.cfg f = 54 + (s.rowsBegin f).allRowBytes := by
  have hrow : (s.headerWhole f).allRowBytes = fileH f * rowBytes s.cfg f := by
    rw [State.allRowBytes, State.rowBytes, s.headerWhole_h, s.headerWhole_w, s.headerWhole_bytesPerPixel,
      s.headerWhole_padlen, rowBytes]
  rw [need, ← hrow]
  rfl

/-- The first NEED bytes of a good stream are taken, and they take the load to DONE (R48). -/
theorem takes_need {s : State} {f : List Byte} (h : HeaderLegal s.cfg f) (hp : s.cfg.wf = true)
    (hlen : need s.cfg f ≤ f.length) :
    ∃ t, Takes s.beginLoad (f.take (need s.cfg f)) t ∧ t.phase = .done := by
  have hneed := need_eq_allRowBytes s f
  have hrows : (s.rowsBegin f).scanned + ((f.drop 54).take (s.rowsBegin f).allRowBytes).length =
      (s.rowsBegin f).allRowBytes := by
    rw [s.rowsBegin_scanned, List.length_take, List.length_drop]
    omega
  obtain ⟨t, ht, -, hdone⟩ := takes_rows_to_done (h.scanning hp) hrows
  rw [hneed, List.take_add]
  exact ⟨t, (takes_legalHeader h hp).append ht, hdone⟩

/-- Settles O52: the first NEED bytes take the load to DONE, where the rest of the stream is no event. -/
theorem goodLoadConsumesExactlyNeed : Obligations.GoodLoadConsumesExactlyNeed := by
  intro s f hinv hidle hlegal hlen
  obtain ⟨t, ht, hdone⟩ := takes_need hlegal hinv.parameters hlen
  have hnotBusy : t.busy = false := by simp [State.busy, hdone, Phase.busy]
  have hsplit : f = f.take (need s.cfg f) ++ f.drop (need s.cfg f) := (List.take_append_drop _ f).symm
  refine ⟨⟨s.beginLoad, exec_start_notBusy hidle, ?_⟩, ?_⟩
  · have hcount := ht.consumed_append (f.drop (need s.cfg f))
    rwa [← hsplit, consumed_notBusy hnotBusy, List.length_take, Nat.min_eq_left hlen] at hcount
  · have hwhole := ht.deliver_append (f.drop (need s.cfg f))
    have hfirst := ht.deliver_append []
    rw [← hsplit, deliver_notBusy hnotBusy] at hwhole
    rw [List.append_nil, deliver_notBusy hnotBusy] at hfirst
    rw [load_notBusy hidle, load_notBusy hidle, hwhole, hfirst]

end Sys2Proof.Machine
end

section
/-! SUPPORT. The commands START and EOS, one equation for each condition of R91 to R94, and the statements O10, O11 and O12
about them. -/

namespace Sys2Proof.Machine

/-- Settles O10: START's record update is `State.beginLoad`. -/
theorem startBeginsLoad : Obligations.StartBeginsLoad :=
  fun _ hb => exec_start_notBusy hb

/-- Settles O11: START's guard is BUSY. -/
theorem startWhileBusyIsIgnored : Obligations.StartWhileBusyIsIgnored :=
  fun _ hb => if_pos hb

/-! ### FAIL and FINALIZE as steps of their own -/

/-- `raise Fail(e)` as a step of its own is failure entry (R193). -/
theorem exec_fail (e : ErrCode) (s : State) : exec (.fail e) s = .next (s.raiseFail e) := rfl

/-- FINALIZE as a step of its own (log 11). -/
theorem exec_finalize (s : State) : exec .finalize s = settle s (finalize s) := rfl

/-- A failing step shows its code and leaves BUSY (R193). -/
theorem exec_fail_outcome (e : ErrCode) (s : State) :
    ∃ t, exec (.fail e) s = .next t ∧ t.busy = false ∧ t.failed = true ∧ t.err = e :=
  ⟨s.raiseFail e, exec_fail e s, s.raiseFail_busy e, s.raiseFail_failed e, s.raiseFail_err e⟩

/-! ### EOS, by the state it meets -/

theorem exec_eos_notBusy {s : State} (hb : s.busy = false) : exec .eos s = .next s :=
  if_neg (by simp [hb])

/-- A stream that ends before its first byte is a failed open (R93). -/
theorem exec_eos_open {s : State} (hp : s.phase = .fhdr) (h0 : s.hoff = 0) :
    exec .eos s = exec (.fail .openFailed) s := by
  show execEos s = _
  have hb : s.busy = true := s.phase.busy_iff.mpr (.inl hp)
  rw [execEos, if_pos hb, if_pos ⟨hp, h0⟩, exec_fail]

/-- The end of the stream in the last row's padding ends the load as FINALIZE does, where the parameter allows it (R94). -/
theorem exec_eos_finalPad {s : State} (hopt : s.cfg.finalPadOptional = true) (hp : s.phase = .pad)
    (hl : s.line.toNat + 1 = s.h) : exec .eos s = settle s (finalize { s with padcnt := 0 }) := by
  show execEos s = _
  have hb : s.busy = true := s.phase.busy_iff.mpr (.inr (.inr (.inr hp)))
  rw [execEos, if_pos hb, if_neg (by simp [hp]), if_pos ⟨hopt, hp, hl⟩]

/-- Anywhere else in a load the stream ended too early (R94). -/
theorem exec_eos_io {s : State} (hb : s.busy = true) (hopen : ¬(s.phase = .fhdr ∧ s.hoff = 0))
    (hpad : ¬(s.cfg.finalPadOptional = true ∧ s.phase = .pad ∧ s.line.toNat + 1 = s.h)) :
    exec .eos s = exec (.fail .io) s := by
  show execEos s = _
  rw [execEos, if_pos hb, if_neg hopen, if_neg hpad, exec_fail]

/-- Settles O12: each branch is its equation of EOS, and the invariant makes FINALIZE commit. -/
theorem endOfStreamFailsOrCommits : Obligations.EndOfStreamFailsOrCommits := by
  intro s hb
  refine ⟨fun hp h0 => ?openFailed, fun hinv hopt hp hl => ?finalPad, fun hopen hpad => ?io⟩
  case openFailed =>
    rw [exec_eos_open hp h0]
    exact ⟨rfl, exec_fail_outcome _ s⟩
  case finalPad =>
    have hsame : s.SameSize { s with padcnt := 0 } := ⟨rfl, rfl, rfl⟩
    have hcommit := finalize_sized (hsame.sized (hinv.scanning (.inr hp)).toSized)
    rw [exec_eos_finalPad hopt hp hl, exec_finalize, hcommit]
    exact ⟨rfl, rfl⟩
  case io =>
    rw [exec_eos_io hb hopen hpad]
    exact ⟨rfl, exec_fail_outcome _ s⟩

end Sys2Proof.Machine
end

section
/-! SUPPORT. A byte event by PHASE (R95), the operation that the sequencer's position refines it to (R74), and the statement
O13 about them. -/

namespace Sys2Proof.Machine

/-! ### BYTE, by PHASE -/

/-- HCAP in its phases is the whole step of a header byte (R96). -/
theorem exec_hcap_header {s : State} (h : s.phase = .fhdr ∨ s.phase = .ihdr) (b : Byte) :
    exec (.hcap b) s = settle (s.capture b) (afterCapture b (s.capture b)) :=
  if_pos h

theorem exec_byte_eq_hcap {s : State} (h : s.phase = .fhdr ∨ s.phase = .ihdr) (b : Byte) :
    exec (.byte b) s = exec (.hcap b) s :=
  (exec_byte_header h b).trans (exec_hcap_header h b).symm

/-- A byte in PIX is the operation of the depth (R95); `exec_byte_pix` says what it does in the scanline loop. -/
theorem exec_byte_of_pix {s : State} (hp : s.phase = .pix) (b : Byte) :
    exec (.byte b) s = if s.bpp = 24 then exec (.pix24 b) s else exec (.pix32 b) s := by
  show execByte b s = _
  rw [execByte, hp]
  rfl

theorem exec_byte_pad {s : State} (hp : s.phase = .pad) (b : Byte) : exec (.byte b) s = exec (.padskip b) s := by
  show execByte b s = _
  rw [execByte, hp]
  rfl

theorem exec_byte_notBusy {s : State} (hb : s.busy = false) (b : Byte) : exec (.byte b) s = .next s := by
  show execByte b s = _
  cases hp : s.phase with
  | fhdr | ihdr | pix | pad => simp [State.busy, hp, Phase.busy] at hb
  | idle | done | failed => rw [execByte, hp]

/-! ### The refined operation does what the byte does -/

/-- A field capture at an offset of its field is HCAP (R74, R96). -/
theorem fieldCapture_selected {s : State} {phase : Phase} {lo hi : Nat} (hp : s.phase = phase) (hlo : lo ≤ s.hoff.toNat)
    (hhi : s.hoff.toNat ≤ hi) (b : Byte) : fieldCapture phase lo hi b s = headerByte b s :=
  if_pos ⟨hp, hlo, hhi⟩

theorem exec_fileHeaderOp {s : State} (hp : s.phase = .fhdr) (b : Byte) :
    exec (fileHeaderOp s.hoff.toNat b) s = exec (.byte b) s := by
  rw [exec_byte_header (.inl hp)]
  rcases fileHeaderOp_cases s.hoff.toNat b with ⟨hhi, hop⟩ | ⟨hlo, hhi, hop⟩ | ⟨hlo, hhi, hop⟩ | ⟨hlo, hhi, hop⟩ |
    ⟨hlo, hhi, hop⟩ | ⟨-, hop⟩ <;> rw [hop]
  rotate_right
  · exact exec_byte_header (.inl hp) b
  · exact fieldCapture_selected hp (Nat.zero_le _) hhi b
  all_goals exact fieldCapture_selected hp hlo hhi b

theorem exec_infoHeaderOp {s : State} (hp : s.phase = .ihdr) (b : Byte) :
    exec (infoHeaderOp s.hoff.toNat b) s = exec (.byte b) s := by
  rw [exec_byte_header (.inr hp)]
  rcases infoHeaderOp_cases s.hoff.toNat b with ⟨-, hop⟩ | ⟨hlo, hhi, hop⟩ | ⟨hlo, hhi, hop⟩ | ⟨hlo, hhi, hop⟩ |
    ⟨hlo, hhi, hop⟩ | ⟨hlo, hhi, hop⟩ | ⟨hlo, hhi, hop⟩ | ⟨hlo, hhi, hop⟩ | ⟨hlo, hhi, hop⟩ | ⟨hlo, hhi, hop⟩ |
    ⟨hlo, hhi, hop⟩ | ⟨hlo, hhi, hop⟩ | ⟨-, hop⟩ <;> rw [hop]
  rotate_right
  · exact exec_byte_header (.inr hp) b
  · exact exec_byte_header (.inr hp) b
  all_goals exact fieldCapture_selected hp hlo hhi b

/-- What the decoder refines a byte to does in this state what the byte does (R74, R95). -/
theorem exec_streamOp (s : State) (b : Byte) : exec (streamOp s.selector b) s = exec (.byte b) s := by
  rw [streamOp, s.selector_phase, s.selector_hoff, s.selector_bpp]
  cases hp : s.phase with
  | fhdr => exact exec_fileHeaderOp hp b
  | ihdr => exact exec_infoHeaderOp hp b
  | pix => rw [exec_byte_of_pix hp]; exact apply_ite (exec · s) _ _ _
  | pad => exact (exec_byte_pad hp b).symm
  | idle | done | failed => rfl

/-- Settles O13: one equation of BYTE for each PHASE, and the refined operation's. -/
theorem byteRunsOperationSelectedByPhase : Obligations.ByteRunsOperationSelectedByPhase :=
  fun s b => ⟨fun h => exec_byte_eq_hcap h b, fun hp => exec_byte_of_pix hp b, fun hp => exec_byte_pad hp b,
    fun _ => (exec_streamOp s b).symm, fun hb => ⟨exec_byte_notBusy hb b, exec_eos_notBusy hb⟩⟩

end Sys2Proof.Machine
end

section
/-! SUPPORT. HCAP by HOFF (R96), and the statement O15 about it. -/

namespace Sys2Proof.Machine

/-- A capture at a known offset as one record update (R96). -/
theorem State.capture_eq {s : State} {k : BitVec 6} (hk : s.hoff = k) (b : Byte) :
    s.capture b = { s with hdr := s.hdr.setIfInBounds k.toNat b } := by
  rw [State.capture, hk]

/-- A bad signature is found at its second byte (R116). -/
theorem afterCapture_badSignature {s : State} {b : Byte} (h1 : s.hoff = 1) (hbad : ¬(s.hdrAt 0 = 0x42 ∧ b = 0x4D)) :
    afterCapture b s = .fail .signature := by
  rw [afterCapture, if_pos h1, sigchk, if_neg hbad, Effect.bind_fail]

/-- Failure entry always changes the state: it uses up a batch of unspecified words (R193, log 7). -/
theorem State.raiseFail_ne_self (s : State) (e : ErrCode) : s.raiseFail e ≠ s := by
  intro h
  have hfree := congrArg State.free h
  rw [s.raiseFail_free e] at hfree
  omega

/-- Capturing the second signature byte leaves the first (R96). -/
theorem State.capture_hdrAt_zero {s : State} (h1 : s.hoff = 1) (b : Byte) : (s.capture b).hdrAt 0 = s.hdrAt 0 :=
  s.capture_hdrAt_other b (by rw [h1]; decide)

/-! ### HCAP, by HOFF -/

section
variable {s : State} (h : s.phase = .fhdr ∨ s.phase = .ihdr) (b : Byte)
include h

/-- At an offset where nothing is judged, HCAP stores the byte and advances (R96). -/
theorem exec_hcap_plain (h1 : s.hoff.toNat ≠ 1) (h13 : s.hoff.toNat ≠ 13) (h53 : s.hoff.toNat < 53) :
    exec (.hcap b) s = .next { s with hdr := s.hdr.setIfInBounds s.hoff.toNat b, hoff := s.hoff + 1 } := by
  rw [exec_hcap_header h, afterCapture_plain (s := s.capture b) b h1 h13 h53]
  rfl

/-- The last byte of the file header enters IHDR (R96, R114). -/
theorem exec_hcap_infoHeader (h13 : s.hoff = 13) :
    exec (.hcap b) s = .next { s with hdr := s.hdr.setIfInBounds 13 b, hoff := 14, phase := .ihdr } := by
  rw [exec_hcap_header h, afterCapture_infoHeader (s := s.capture b) b h13, State.capture_eq h13, h13]
  rfl

/-- A good signature advances (R116). -/
theorem exec_hcap_goodSignature (h1 : s.hoff = 1) (h0 : s.hdrAt 0 = 0x42) :
    exec (.hcap 0x4D) s = .next { s with hdr := s.hdr.setIfInBounds 1 0x4D, hoff := 2 } := by
  have h0' := (State.capture_hdrAt_zero h1 0x4D).trans h0
  rw [exec_hcap_header h, afterCapture_signature (s := s.capture 0x4D) h1 h0', State.capture_eq h1, h1]
  rfl

/-- A bad signature fails with its second byte kept (R116, R193). -/
theorem exec_hcap_badSignature (h1 : s.hoff = 1) (hbad : ¬(s.hdrAt 0 = 0x42 ∧ b = 0x4D)) :
    exec (.hcap b) s = exec (.fail .signature) { s with hdr := s.hdr.setIfInBounds 1 b } := by
  rw [← State.capture_hdrAt_zero h1 b] at hbad
  rw [exec_hcap_header h, afterCapture_badSignature (s := s.capture b) h1 hbad, State.capture_eq h1]
  rfl

/-- The last header byte is kept, and VALIDATE then ALLOC judge the header with it (R96, R142). -/
theorem exec_hcap_last (h53 : s.hoff = 53) :
    exec (.hcap b) s = settle (s.capture b) ((validate (s.capture b)).bind alloc) := by
  rw [exec_hcap_header h, afterCapture_last (s := s.capture b) b h53]

end

/-- Judging a header is VALIDATE's step where that fails, ALLOC's where it passes (R142). -/
theorem settle_validate_alloc (c : State) :
    (exec .validate c = .next c → settle c ((validate c).bind alloc) = exec .alloc c) ∧
      (exec .validate c ≠ .next c → settle c ((validate c).bind alloc) = exec .validate c) := by
  have hexec : exec .validate c = settle c (validate c) := rfl
  rw [hexec]
  rcases validate_cases c with ⟨-, -, -, -, hv⟩ | ⟨e, -, hv⟩ <;> rw [hv]
  · exact ⟨fun _ => rfl, fun hne => absurd rfl hne⟩
  · exact ⟨fun heq => absurd (Host.Outcome.next.inj heq) (c.raiseFail_ne_self e), fun _ => rfl⟩

/-- Settles O15: one equation of HCAP for each row of R96. -/
theorem headerCaptureStep : Obligations.HeaderCaptureStep := by
  intro s b h hle
  have hne (v : BitVec 6) (hv : s.hoff ≠ v) : s.hoff.toNat ≠ v.toNat := fun he => hv (BitVec.eq_of_toNat_eq he)
  refine ⟨fun h1 h13 h53 => ?plain, exec_hcap_infoHeader h b, fun h1 h0 hb => ?good, exec_hcap_badSignature h b,
    fun h53 c hc => ?last⟩
  case plain => exact exec_hcap_plain h b (hne 1 h1) (hne 13 h13) (Nat.lt_of_le_of_ne hle (hne 53 h53))
  case good => rw [hb]; exact exec_hcap_goodSignature h h1 h0
  case last =>
    have hcap : s.capture b = c := (State.capture_eq h53 b).trans hc.symm
    rw [exec_hcap_last h b h53, hcap]
    exact settle_validate_alloc c

end Sys2Proof.Machine
end

section
/-! SUPPORT. The register table (R26) as numbers, and the statement O35 about RDREG. -/

namespace Sys2Proof.Machine

/-! ### Packed registers as numbers -/

/-- A field packed below another one. -/
theorem toNat_append_eq {n m : Nat} (x : BitVec n) (y : BitVec m) : (x ++ y).toNat = 2 ^ m * x.toNat + y.toNat := by
  rw [BitVec.toNat_append, ← Nat.shiftLeft_add_eq_or_of_lt y.isLt, Nat.shiftLeft_eq, Nat.mul_comm]

theorem toNat_ofBool_eq_ite (c : Bool) : (BitVec.ofBool c).toNat = if c = true then 1 else 0 := by
  cases c <;> rfl

theorem State.status_toNat (s : State) : s.status.toNat =
    s.phase.code.toNat + 2 ^ 3 * (if s.busy = true then 1 else 0) + 2 ^ 4 * (if s.done = true then 1 else 0)
      + 2 ^ 5 * (if s.failed = true then 1 else 0) + 2 ^ 6 * (if s.imgValid = true then 1 else 0)
      + 2 ^ 7 * (if s.active = true then 1 else 0) + 2 ^ 8 * s.err.code.toNat := by
  simp only [State.status, toNat_append_eq, toNat_ofBool_eq_ite]
  omega

theorem State.seq_toNat (s : State) :
    s.seq.toNat = s.hoff.toNat + 2 ^ 6 * s.kb.toNat + 2 ^ 8 * s.padcnt.toNat := by
  simp only [State.seq, toNat_append_eq]
  omega

/-! ### The table, row by row -/

theorem State.readReg_half (s : State) {n : BitVec 6} {o : Nat}
    (h : (n, o) ∈ ([(0x10, 0), (0x12, 6), (0x13, 8), (0x18, 26), (0x19, 28)] : List (BitVec 6 × Nat))) :
    s.readReg n = (s.le16 o).toNat := by
  simp only [List.mem_cons, List.not_mem_nil, or_false, Prod.mk.injEq] at h
  rcases h with ⟨rfl, rfl⟩ | ⟨rfl, rfl⟩ | ⟨rfl, rfl⟩ | ⟨rfl, rfl⟩ | ⟨rfl, rfl⟩ <;> rfl

theorem State.readReg_word (s : State) {n : BitVec 6} {o : Nat}
    (h : (n, o) ∈ ([(0x11, 2), (0x14, 10), (0x15, 14), (0x16, 18), (0x17, 22), (0x1A, 30), (0x1B, 34), (0x1C, 38),
      (0x1D, 42), (0x1E, 46), (0x1F, 50)] : List (BitVec 6 × Nat))) :
    s.readReg n = (s.le32 o).toNat := by
  simp only [List.mem_cons, List.not_mem_nil, or_false, Prod.mk.injEq] at h
  rcases h with ⟨rfl, rfl⟩ | ⟨rfl, rfl⟩ | ⟨rfl, rfl⟩ | ⟨rfl, rfl⟩ | ⟨rfl, rfl⟩ | ⟨rfl, rfl⟩ | ⟨rfl, rfl⟩ | ⟨rfl, rfl⟩ |
    ⟨rfl, rfl⟩ | ⟨rfl, rfl⟩ | ⟨rfl, rfl⟩ <;> rfl

theorem State.readReg_unlisted (s : State) {n : BitVec 6} (h : (8 ≤ n.toNat ∧ n.toNat ≤ 15) ∨ 32 ≤ n.toNat) :
    s.readReg n = 0 := by
  unfold State.readReg
  split
  case h_25 => rfl
  all_goals omega

/-! ### The answer fits the port -/

/-- IMG_LEN never exceeds CAP (R25, R30). -/
theorem State.Inv.imgLen_le_cap {s : State} (h : s.Inv) : s.imgLen ≤ s.cfg.cap := by
  cases hv : s.imgValid with
  | true =>
    obtain ⟨-, -, hle⟩ := h.committed hv
    exact hle
  | false =>
    obtain ⟨-, -, hlen, -⟩ := h.empty hv
    exact hlen ▸ Nat.zero_le _

/-- A register of at most 32 bits fits the SZ wires (R3). -/
theorem toNat_lt_two_pow_sz {p : Config.Params} (hp : p.wf = true) {n : Nat} (hn : n ≤ 32) (x : BitVec n) :
    x.toNat < 2 ^ p.sz := by
  simp only [Config.Params.wf, Bool.and_eq_true, decide_eq_true_eq] at hp
  obtain ⟨⟨hsz, -⟩, -⟩ := hp
  exact Nat.lt_of_lt_of_le x.isLt (Nat.pow_le_pow_right Nat.two_pos (Nat.le_trans hn hsz))

/-- Of the table only IMG_LEN and NPIX are wider than 32 bits, and both are at most CAP. -/
theorem State.Inv.readReg_lt {s : State} (h : s.Inv) (n : BitVec 6) : s.readReg n < 2 ^ s.cfg.sz := by
  unfold State.readReg
  split
  case h_4 => exact lt_two_pow_of_le_cap h.parameters h.imgLen_le_cap
  case h_5 => exact lt_two_pow_of_le_cap h.parameters h.sized
  case h_25 => exact Nat.two_pow_pos _
  all_goals exact toNat_lt_two_pow_sz h.parameters (by decide) _

/-- RDREG records the table's value and leaves the block alone (R26, R99, log 9). -/
theorem exec_rdreg {s : State} {n : BitVec 6} {v : Nat} (h : s.readReg n = v) :
    exec (.rdreg n) s = .next { s with port := { s.port with regRdata := v } } := by
  subst h
  rfl

/-- Settles O35: RDREG answers `State.readReg`, whose rows are the equations above. -/
theorem registerReadTable : Obligations.RegisterReadTable := by
  intro s
  refine ⟨exec_rdreg s.status_toNat, exec_rdreg rfl, exec_rdreg rfl, exec_rdreg rfl, exec_rdreg rfl, exec_rdreg rfl,
    exec_rdreg rfl, exec_rdreg s.seq_toNat, fun n o hno => ?half, fun n o hno => ?word,
    fun n hn => exec_rdreg (s.readReg_unlisted hn), fun hinv n => ⟨_, exec_rdreg rfl, hinv.readReg_lt n⟩⟩
  case half => exact exec_rdreg ((s.readReg_half hno).trans (s.le16_toNat o))
  case word => exact exec_rdreg ((s.readReg_word hno).trans (s.le32_toNat o))

end Sys2Proof.Machine
end

section
/-! SUPPORT. The judgement of a whole header: VALIDATE (R141), `mul_size` (R143) and ALLOC (R144), and the statements O22,
O23 and O24 about them. -/

namespace Sys2Proof.Machine

/-! ### VALIDATE -/

/-- VALIDATE as a step of its own (log 11). -/
theorem exec_validate (s : State) : exec .validate s = settle s (validate s) := rfl

/-- A step that passes its state on unchanged did not fail: a failure changes the state (R193, log 7). -/
theorem settle_eq_next_self_iff (s : State) (e : Effect) : settle s e = .next s ↔ e = .ok s := by
  refine ⟨fun h => ?_, fun h => by rw [h, settle_ok]⟩
  rcases settle_eq_next h with hok | ⟨c, -, hs⟩
  · exact hok
  · exact absurd hs.symm (s.raiseFail_ne_self c)

/-- VALIDATE passes exactly the valid headers, whatever the order of its tests (R141). -/
theorem validate_eq_ok_iff (s : State) : validate s = .ok s ↔ s.headerValid := by
  refine ⟨fun h => ?_, validate_valid⟩
  rcases validate_cases s with ⟨hw, hh, hbpp, hcompr, -⟩ | ⟨e, -, hfail⟩
  · exact ⟨hw, hh, hbpp, hcompr⟩
  · rw [hfail] at h
    cases h

/-- VALIDATE writes nothing (R141). -/
theorem eq_of_validate_eq_ok {s t : State} (h : validate s = .ok t) : t = s := by
  rcases validate_cases s with ⟨-, -, -, -, hok⟩ | ⟨e, -, hfail⟩
  · exact (Effect.ok.inj (hok.symm.trans h)).symm
  · rw [hfail] at h
    cases h

/-- Failure entry leaves the committed image (R193). -/
theorem State.raiseFail_sameImage (s : State) (e : ErrCode) : s.sameImage (s.raiseFail e) := by
  simp [State.sameImage]

/-- Settles O22: each test of VALIDATE ends the step by itself, and the state afterwards is either its own or failure
entry's. -/
theorem validateTestsInOrder : Obligations.ValidateTestsInOrder := by
  intro s
  rw [exec_validate]
  refine ⟨?order, ?passes, fun t ht => ?outcome⟩
  case order => simp only [validate, Config.biRgb, apply_ite (settle s), settle_fail, settle_ok, exec_fail]
  case passes => rw [settle_eq_next_self_iff, validate_eq_ok_iff]
  case outcome =>
    rcases settle_eq_next ht with hok | ⟨e, -, rfl⟩
    · exact .inl (eq_of_validate_eq_ok hok)
    · exact .inr ⟨s.raiseFail_busy e, s.raiseFail_failed e, s.raiseFail_sameImage e⟩

/-! ### `mul_size` -/

theorem mulSize_eq_none_iff (p : Config.Params) (w h : Nat) :
    mulSize p.maxsz w h = none ↔ 2 ^ p.sz ≤ w * h := by
  simp [mulSize_eq]

theorem mulSize_eq_some_iff (p : Config.Params) (w h n : Nat) :
    mulSize p.maxsz w h = some n ↔ n = w * h ∧ w * h < 2 ^ p.sz := by
  rw [mulSize_eq]
  by_cases hle : 2 ^ p.sz ≤ w * h
  · simp [hle]
  · simp [hle, Nat.lt_of_not_le hle, eq_comm]

theorem mulSize_comm (p : Config.Params) (w h : Nat) : mulSize p.maxsz w h = mulSize p.maxsz h w := by
  rw [mulSize_eq, mulSize_eq, Nat.mul_comm]

/-- The product of two 32-bit dimensions fits 64 bits (R143). -/
theorem mulSize_ne_none_of_lt {p : Config.Params} {w h : Nat} (hsz : 64 ≤ p.sz) (hw : w < 2 ^ 32) (hh : h < 2 ^ 32) :
    mulSize p.maxsz w h ≠ none := by
  rw [ne_eq, mulSize_eq_none_iff, Nat.not_le]
  calc w * h < 2 ^ 32 * 2 ^ 32 := Nat.mul_lt_mul'' hw hh
    _ = 2 ^ 64 := (Nat.pow_add 2 32 32).symm
    _ ≤ 2 ^ p.sz := Nat.pow_le_pow_right Nat.two_pos hsz

/-- Settles O23: every clause follows from `mulSize_eq`, but for the division test, which is the library's. -/
theorem mulSizeIsExactOrNothing : Obligations.MulSizeIsExactOrNothing :=
  fun p w h n _ _ => ⟨mulSize_eq_some_iff p w h n, mulSize_eq_none_iff p w h, fun _ hh => Nat.div_lt_iff_lt_mul hh,
    mulSize_comm p w h, if_pos (.inl rfl), if_pos (.inr rfl), mulSize_ne_none_of_lt⟩

/-! ### ALLOC -/

/-- ALLOC as a step of its own (log 11). -/
theorem exec_alloc (s : State) : exec .alloc s = settle s (alloc s) := rfl

/-- ALLOC by the size of the true product (R144). -/
theorem alloc_eq (s : State) :
    alloc s =
      if 2 ^ s.cfg.sz ≤ s.w * s.h then .fail .overflow
      else if s.cfg.cap < s.w * s.h then .fail .capacity
      else .ok { s with npix := s.w * s.h, line := 0, col := 0, kb := 0, padcnt := 0, phase := .pix } := by
  rw [alloc, mulSize_eq]
  by_cases hover : 2 ^ s.cfg.sz ≤ s.w * s.h
  · rw [if_pos hover, if_pos hover]
  · rw [if_neg hover, if_neg hover]

/-- Where ALLOC passes, the scanline loop begins with the true product in NPIX (R144). -/
theorem alloc_eq_ok {s t : State} (h : alloc s = .ok t) : t.phase = .pix ∧ t.npix = s.w * s.h := by
  rcases alloc_cases s with ⟨n, hn, -, hok⟩ | ⟨e, -, hfail⟩
  · obtain rfl := Effect.ok.inj (hok.symm.trans h)
    exact ⟨rfl, mulSize_some hn⟩
  · rw [hfail] at h
    cases h

/-- Settles O24: ALLOC by the true product, and the state afterwards is either its own or failure entry's. -/
theorem allocSizesTheImage : Obligations.AllocSizesTheImage := by
  intro s
  have hnone := mulSize_eq_none_iff s.cfg s.w s.h
  rw [exec_alloc]
  refine ⟨?branches, hnone, fun t ht => ?outcome⟩
  case branches => simp only [hnone, alloc_eq, apply_ite (settle s), settle_fail, settle_ok, exec_fail]
  case outcome =>
    rcases settle_eq_next ht with hok | ⟨e, -, rfl⟩
    · exact .inl (alloc_eq_ok hok)
    · exact .inr ⟨s.raiseFail_busy e, s.raiseFail_failed e, s.raiseFail_npix e⟩

end Sys2Proof.Machine
end

section
/-! SUPPORT. The end of a file row (R172) and a padding byte (R171), one equation for each branch, and the statements O27 and
O33 about them. -/

namespace Sys2Proof.Machine

/-! ### ROWEND -/

/-- ROWEND as a step of its own (log 11). -/
theorem exec_rowend (s : State) : exec .rowend s = settle s (rowend s) := rfl

theorem rowend_nextRow {s : State} (h : s.line.toNat + 1 < s.h) :
    rowend s = .ok { s with line := s.line + 1, phase := .pix } :=
  if_pos h

theorem rowend_lastRow {s : State} (h : s.h ≤ s.line.toNat + 1) : rowend s = finalize s :=
  if_neg (Nat.not_lt.mpr h)

/-- After the last row an image that ALLOC sized is committed (R172, R174). -/
theorem rowend_commits {s : State} (hs : s.Sized) (h : s.h ≤ s.line.toNat + 1) :
    rowend s = .ok { s with
      active := !s.active, imgW := s.width, imgH := s.height, imgLen := s.npix, imgValid := true, phase := .done } :=
  (rowend_lastRow h).trans (finalize_sized hs)

/-- Settles O27: the branches of ROWEND, and LINE stays below H, which fits its word. -/
theorem rowendAdvancesOrFinalizes : Obligations.RowendAdvancesOrFinalizes := by
  intro s
  refine ⟨fun h => ?nextRow, State.toNat_line_add_one, fun h => ?lastRow⟩
  case nextRow => rw [exec_rowend, rowend_nextRow h, settle_ok]
  case lastRow => rw [exec_rowend, rowend_lastRow h, exec_finalize]

/-! ### PADSKIP -/

/-- In PAD the step is the same for every value of the byte (R81, R171). -/
theorem exec_padskip_pad {s : State} (hp : s.phase = .pad) (b : Byte) : exec (.padskip b) s = settle s (padByte s) :=
  if_pos hp

theorem padByte_more {s : State} (h : s.padcnt.toNat + 1 < s.padlen) :
    padByte s = .ok { s with padcnt := s.padcnt + 1 } :=
  if_pos h

theorem padByte_last {s : State} (h : s.padlen ≤ s.padcnt.toNat + 1) : padByte s = rowend { s with padcnt := 0 } :=
  if_neg (Nat.not_lt.mpr h)

/-- Settles O33: the branches of a padding byte, where the last one is the end of the row with PADCNT cleared. -/
theorem padskipDropsByte : Obligations.PadskipDropsByte := by
  intro s b hinv hp
  rw [exec_padskip_pad hp b]
  refine ⟨fun hmore => ?more, fun hlast hline => ?nextRow, fun hlast hline => ?commit, exec_padskip_pad hp⟩
  case more => rw [padByte_more hmore, settle_ok]
  case nextRow =>
    rw [padByte_last (Nat.le_of_eq hlast.symm), rowend_nextRow (s := { s with padcnt := 0 }) hline, settle_ok]
  case commit =>
    have hsame : s.SameSize { s with padcnt := 0 } := ⟨rfl, rfl, rfl⟩
    have hsized := hsame.sized (hinv.scanning (.inr hp)).toSized
    rw [padByte_last (Nat.le_of_eq hlast.symm), rowend_commits hsized (Nat.le_of_eq hline.symm), settle_ok]
    rfl

end Sys2Proof.Machine
end

section
/-! SUPPORT. PIXDONE (R165): the word stored in the work bank, then one equation for each way the sequencer goes on, and the
statement O26 about it. -/

namespace Sys2Proof.Machine

/-! ### The sequencer after a pixel -/

theorem State.sameSize_rowStart (s : State) : s.SameSize { s with kb := 0, col := 0 } := ⟨rfl, rfl, rfl⟩

theorem nextColumn_sameRow {s : State} (h : s.col.toNat + 1 < s.w) :
    nextColumn s = .ok { s with kb := 0, col := s.col + 1 } :=
  if_pos h

section
variable {s : State} (hlast : s.w ≤ s.col.toNat + 1)
include hlast

theorem nextColumn_padding (hpad : 0 < s.padlen) :
    nextColumn s = .ok { s with kb := 0, col := 0, phase := .pad, padcnt := 0 } := by
  rw [nextColumn, if_neg (Nat.not_lt.mpr hlast), if_pos hpad]

/-- Without padding the row ends with its last pixel (R165). -/
theorem nextColumn_rowend (hpad : s.padlen = 0) : nextColumn s = rowend { s with kb := 0, col := 0 } := by
  rw [nextColumn, if_neg (Nat.not_lt.mpr hlast), if_neg (Nat.not_lt.mpr (Nat.le_of_eq hpad))]

theorem nextColumn_nextRow (hpad : s.padlen = 0) (hline : s.line.toNat + 1 < s.h) :
    nextColumn s = .ok { s with kb := 0, col := 0, line := s.line + 1, phase := .pix } :=
  (nextColumn_rowend hlast hpad).trans (rowend_nextRow hline)

theorem nextColumn_commits (hs : s.Sized) (hpad : s.padlen = 0) (hline : s.h ≤ s.line.toNat + 1) :
    nextColumn s = .ok { s with
      kb := 0, col := 0, active := !s.active, imgW := s.width, imgH := s.height, imgLen := s.npix, imgValid := true
      phase := .done } :=
  (nextColumn_rowend hlast hpad).trans (rowend_commits (s.sameSize_rowStart.sized hs) hline)

end

/-- The end of a row leaves both banks: a commit only names the other one (R53, R172, R174). -/
theorem rowend_bank {s t : State} (h : rowend s = .ok t) (i : Bool) : t.bank i = s.bank i := by
  rcases rowend_cases s with ⟨-, hr⟩ | ⟨-, hr⟩
  · obtain rfl := Effect.ok.inj (hr.symm.trans h)
    rfl
  · rcases finalize_cases s with ⟨-, hf⟩ | hf
    · obtain rfl := Effect.ok.inj ((hr.trans hf).symm.trans h)
      rfl
    · cases (hr.trans hf).symm.trans h

/-- What follows the store leaves both banks. -/
theorem nextColumn_bank {s t : State} (h : nextColumn s = .ok t) (i : Bool) : t.bank i = s.bank i := by
  rcases nextColumn_cases s with ⟨-, hn⟩ | ⟨-, -, hn⟩ | ⟨-, -, hn⟩
  · obtain rfl := Effect.ok.inj (hn.symm.trans h)
    rfl
  · obtain rfl := Effect.ok.inj (hn.symm.trans h)
    rfl
  · exact rowend_bank (hn.symm.trans h) i

/-- What follows the store does not fail for an image that ALLOC sized (R174). -/
theorem nextColumn_sized {s : State} (hs : s.Sized) : ∃ t, nextColumn s = .ok t := by
  rcases nextColumn_cases s with ⟨-, hn⟩ | ⟨-, -, hn⟩ | ⟨hlast, hpad, -⟩
  · exact ⟨_, hn⟩
  · exact ⟨_, hn⟩
  · rcases Nat.lt_or_ge (s.line.toNat + 1) s.h with hline | hline
    · exact ⟨_, nextColumn_nextRow hlast hpad hline⟩
    · exact ⟨_, nextColumn_commits hlast hs hpad hline⟩

/-! ### The store -/

/-- The state with a word stored at the pixel under way (R165). -/
def State.storePixel (s : State) (p : Pixel) : State := s.setBank (!s.active) (s.work.put s.pixelAddr p)

/-- The store writes the pixel store and nothing else. -/
theorem State.storePixel_eq (s : State) (p : Pixel) :
    ∃ b0 b1, s.storePixel p = { s with pix0 := b0, pix1 := b1 } :=
  ⟨_, _, s.setBank_eq _ _⟩

theorem State.storePixel_sameSize (s : State) (p : Pixel) : s.SameSize (s.storePixel p) :=
  ⟨s.setBank_cfg _ _, s.setBank_hdr _ _, s.setBank_npix _ _⟩

/-- The store leaves the committed bank (R53). -/
theorem State.storePixel_bank_active (s : State) (p : Pixel) : (s.storePixel p).bank s.active = s.bank s.active :=
  s.setBank_bank_not _ _

theorem State.storePixel_bank_work (s : State) (p : Pixel) :
    (s.storePixel p).bank (!s.active) = (s.bank (!s.active)).put s.pixelAddr p :=
  s.setBank_bank_same _ _

/-- PIXDONE as a step of its own, in the scanline loop: the store, then what follows it (R165, log 11). -/
theorem exec_pixdone_scanning {s : State} (h : s.Scanning) (hcol : s.col.toNat < s.w) (r g bl a : Byte) :
    exec (.pixdone r g bl a) s = settle s (nextColumn (s.storePixel (pixelWord r g bl a))) := by
  rcases pixdone_cases r g bl a s with ⟨-, hd⟩ | ⟨hcap, -⟩
  · exact congrArg (settle s) hd
  · exact absurd (h.pixelAddr_lt hcol) (Nat.not_lt.mpr hcap)

/-- The pixel under way is one of the image (R165). -/
theorem State.Scanning.pixelAddr_lt_npix {s : State} (h : s.Scanning) (hcol : s.col.toNat < s.w) :
    s.pixelAddr < s.npix := by
  have hrow := h.memoryRow_le
  rw [State.pixelAddr]
  omega

/-- Settles O26: the banks are those of `State.storePixel`, and each continuation is its equation of `nextColumn`. -/
theorem pixdoneStoresOneWordAndAdvances : Obligations.PixdoneStoresOneWordAndAdvances := by
  intro s r g bl a hinv hp
  obtain ⟨hcol, -⟩ := hinv.pixel hp
  have hscan := hinv.scanning (.inl hp)
  have hsized := (s.storePixel_sameSize (pixelWord r g bl a)).sized hscan.toSized
  obtain ⟨t, ht⟩ := nextColumn_sized hsized
  have hwork := (nextColumn_bank ht (!s.active)).trans (s.storePixel_bank_work _)
  have hactive := (nextColumn_bank ht s.active).trans (s.storePixel_bank_active _)
  obtain ⟨b0, b1, hu⟩ := s.storePixel_eq (pixelWord r g bl a)
  have hnext {t' : State} (h : nextColumn { s with pix0 := b0, pix1 := b1 } = .ok t') : t' = t :=
    Effect.ok.inj (h.symm.trans (hu ▸ ht))
  refine ⟨t, ?exec, hscan.pixelAddr_lt_npix hcol, ?word, fun c hc => ?others, hactive, fun hmore => ?sameRow,
    fun hlast hpad => ?padding, fun hlast hpad hline => ?nextRow, fun hlast hpad hline => ?commit⟩
  case exec => rw [exec_pixdone_scanning hscan hcol, ht, settle_ok]
  case word => rw [hwork]; exact Bank.find_put_same _ _ _
  case others => rw [hwork]; exact ⟨Bank.find_put_other _ hc _, Bank.read_put_other _ hc _⟩
  case sameRow =>
    obtain rfl := hnext (nextColumn_sameRow hmore)
    rfl
  case padding =>
    obtain rfl := hnext (nextColumn_padding (Nat.le_of_eq hlast.symm) hpad)
    rfl
  case nextRow =>
    obtain rfl := hnext (nextColumn_nextRow (Nat.le_of_eq hlast.symm) hpad hline)
    rw [← hp]
  case commit =>
    rw [hu] at hsized
    obtain rfl := hnext (nextColumn_commits (Nat.le_of_eq hlast.symm) hsized hpad (Nat.le_of_eq hline.symm))
    rfl

end Sys2Proof.Machine
end

section
/-! SUPPORT. The padding of a row (R170): its arithmetic in naturals and in wrapping words, and the statement O34 about it. -/

namespace Sys2Proof.Machine

/-- Only the row's length matters: the remainder of the width keeps it modulo 4 (R170). -/
theorem padding_eq (w bp : Nat) : padding w bp = (4 - w * bp % 4) % 4 := by
  rw [padding, Nat.mod_mul_mod]

theorem padding_mod_four (w bp : Nat) : padding (w % 4) bp = padding w bp := by
  rw [padding, padding, Nat.mod_mod]

theorem padding_three (w : Nat) : padding w 3 = w % 4 := by
  rw [padding]
  omega

theorem padding_four (w : Nat) : padding w 4 = 0 := by
  rw [padding]
  omega

/-- The padded row is a whole number of four-byte groups, and no shorter padding makes it one (R170). -/
theorem padding_least (w bp : Nat) :
    (w * bp + padding w bp) % 4 = 0 ∧ ∀ p, (w * bp + p) % 4 = 0 → padding w bp ≤ p := by
  rw [padding_eq]
  exact ⟨by omega, fun p hp => by omega⟩

/-- The padded row is the row's length rounded up to a multiple of four (R170). -/
theorem add_padding (w bp : Nat) : w * bp + padding w bp = (w * bp + 3) / 4 * 4 := by
  rw [padding_eq]
  omega

/-- Clearing the two low bits of a word rounds down to a multiple of four. -/
theorem ofNat_and_not_three (n k : Nat) : BitVec.ofNat n k &&& ~~~3#n = BitVec.ofNat n (k / 4 * 4) := by
  have hlow (i : Nat) : Nat.testBit 3 i = decide (i < 2) := Nat.testBit_two_pow_sub_one 2 i
  have hround : k / 4 * 4 = k >>> 2 <<< 2 := by rw [Nat.shiftLeft_eq, Nat.shiftRight_eq_div_pow]
  refine BitVec.eq_of_getLsbD_eq fun i hi => ?_
  simp only [hround, BitVec.getLsbD_and, BitVec.getLsbD_not, BitVec.getLsbD_ofNat, Nat.testBit_shiftLeft,
    Nat.testBit_shiftRight, hlow, ge_iff_le, decide_eq_true hi, Bool.true_and]
  rcases Nat.lt_or_ge i 2 with h2 | h2
  · rw [decide_eq_true h2, decide_eq_false (Nat.not_le.mpr h2), Bool.not_true, Bool.and_false, Bool.false_and]
  · rw [decide_eq_false (Nat.not_lt.mpr h2), decide_eq_true h2, Nat.add_sub_cancel' h2, Bool.not_false, Bool.and_true,
      Bool.true_and]

/-- The document's formula on words: rounding up wraps exactly as the padded length does (R170). -/
theorem ofNat_padding (n w bp : Nat) : BitVec.ofNat n (padding w bp) =
    ((BitVec.ofNat n (w * bp) + 3#n) &&& ~~~3#n) - BitVec.ofNat n (w * bp) := by
  rw [← BitVec.ofNat_add, ofNat_and_not_three, ← add_padding, BitVec.ofNat_add, BitVec.add_comm, BitVec.add_sub_cancel]

/-- Settles O34: the padded length is the row's length rounded up to a multiple of four. -/
theorem paddingIsTheLeastToAMultipleOfFour : Obligations.PaddingIsTheLeastToAMultipleOfFour :=
  ⟨fun _ => rfl, fun _ _ => rfl, fun w => ⟨padding_three w, padding_four w⟩, fun w bp => (padding_mod_four w bp).symm,
    padding_least, fun w bp => Nat.eq_sub_of_add_eq' (add_padding w bp), fun n w bp _ => ofNat_padding n w bp⟩

end Sys2Proof.Machine
end

section
/-! SUPPORT. The bounds-checked pixel read (R176), and the statement O36 about RDPIX. -/

namespace Sys2Proof.Machine

/-- An index is readable where the image is valid and has that pixel (R176). -/
theorem State.rdOk_eq_true_iff (s : State) (a : Nat) : s.rdOk a = true ↔ s.imgValid = true ∧ a < s.imgLen := by
  rw [State.rdOk, Bool.and_eq_true, decide_eq_true_eq]

theorem State.rdOk_eq_false_iff (s : State) (a : Nat) : s.rdOk a = false ↔ s.imgValid = false ∨ s.imgLen ≤ a := by
  rw [State.rdOk, Bool.and_eq_false_iff, decide_eq_false_iff_not, Nat.not_lt]

theorem State.rdData_of_rdOk {s : State} {a : Nat} (h : s.rdOk a = true) : s.rdData a = (s.bank s.active).read a :=
  if_pos h

/-- A readable index of an image that the store holds answers its word (R176). -/
theorem exec_rdpix_inBounds {s : State} {a : Nat} (h : s.rdOk a = true) (ha : a < s.cfg.cap) :
    exec (.rdpix a) s = .next { s with port := { s.port with rdOk := true, rdData := (s.bank s.active).read a } } := by
  show execRdpix a s = _
  rw [execRdpix, if_neg fun hbad => Nat.not_le.mpr ha hbad.2, State.rdData_of_rdOk h, h]

/-- Any other index answers zero (R176). -/
theorem exec_rdpix_outOfBounds {s : State} {a : Nat} (h : s.rdOk a = false) :
    exec (.rdpix a) s = .next { s with port := { s.port with rdOk := false, rdData := 0 } } := by
  show execRdpix a s = _
  rw [execRdpix, State.rdData, h, if_neg fun hbad => Bool.false_ne_true hbad.1, if_neg Bool.false_ne_true]

/-- The row-major index of a pixel is one of the image (R51, R176). -/
theorem State.Inv.pixelIndex_lt {s : State} (h : s.Inv) (hv : s.imgValid = true) {x y : Nat} (hx : x < s.imgW.toNat)
    (hy : y < s.imgH.toNat) : y * s.imgW.toNat + x < s.imgLen := by
  obtain ⟨hlen, -⟩ := h.committed hv
  rw [hlen, Nat.mul_comm s.imgW.toNat]
  have hrow := mul_add_le_mul_of_lt hy s.imgW.toNat
  omega

/-- Settles O36: RDPIX by `State.rdOk`, which the row-major index of a pixel meets. -/
theorem pixelReadIsBoundsChecked : Obligations.PixelReadIsBoundsChecked := by
  intro s a hcap
  refine ⟨fun hv ha => ?inBounds, fun hout => ?outOfBounds, fun x y hinv hv hx hy => ?view⟩
  case inBounds => exact exec_rdpix_inBounds ((s.rdOk_eq_true_iff a).mpr ⟨hv, ha⟩) (Nat.lt_of_lt_of_le ha hcap)
  case outOfBounds => exact exec_rdpix_outOfBounds ((s.rdOk_eq_false_iff a).mpr hout)
  case view =>
    have hok := (s.rdOk_eq_true_iff _).mpr ⟨hv, hinv.pixelIndex_lt hv hx hy⟩
    rw [State.pixel, if_pos ⟨hx, hy, hok⟩, State.rdData_of_rdOk hok]

end Sys2Proof.Machine
end

section
/-! SUPPORT. Failure entry (R193), on its own and from a failing header capture (R96), and the statement O29 about it. -/

namespace Sys2Proof.Machine

/-- Failure entry leaves the bank that ACTIVE names (R193). -/
theorem State.raiseFail_bank_active (s : State) (e : ErrCode) : (s.raiseFail e).bank s.active = s.bank s.active :=
  s.setBank_bank_not s.active (Bank.unspecified s.free)

/-- Failure entry discards the other bank (R193, log 7). -/
theorem State.raiseFail_bank_work (s : State) (e : ErrCode) :
    (s.raiseFail e).bank (!s.active) = Bank.unspecified s.free :=
  s.setBank_bank_same (!s.active) (Bank.unspecified s.free)

/-- A judgement of the header that passes enters PIX (R141, R144). -/
theorem phase_of_validate_alloc {s t : State} (h : (validate s).bind alloc = .ok t) : t.phase = .pix := by
  obtain ⟨u, -, halloc⟩ := Effect.bind_eq_ok h
  exact (alloc_eq_ok halloc).1

/-- What follows a capture writes FAILED nowhere but by `raise Fail` (R96). -/
theorem afterCapture_phase_ne_failed {s t : State} {b : Byte} (hs : s.phase ≠ .failed) (h : afterCapture b s = .ok t) :
    t.phase ≠ .failed := by
  rcases afterCapture_cases b s with ⟨-, -, -, hc⟩ | ⟨-, hc⟩ | ⟨-, hc⟩ | ⟨-, hc⟩ | ⟨-, -, -, hc⟩ | ⟨-, hc⟩ <;>
    rw [hc] at h
  · cases h; exact hs
  · cases h
  · cases h; exact nofun
  · rw [phase_of_validate_alloc h]; exact nofun
  · cases h; exact hs
  · cases h; exact hs

/-- A header capture that ends in FAILED is failure entry on the state with the byte captured (R96, R193). -/
theorem exec_hcap_eq_failed {s t : State} {b : Byte} (hp : s.phase = .fhdr ∨ s.phase = .ihdr)
    (h : exec (.hcap b) s = .next t) (ht : t.phase = .failed) : ∃ e, t = (s.capture b).raiseFail e := by
  have hs : (s.capture b).phase ≠ .failed := by rcases hp with hp | hp <;> simp [hp]
  rw [exec_hcap_header hp] at h
  rcases settle_eq_next h with hok | ⟨e, -, heq⟩
  · exact absurd ht (afterCapture_phase_ne_failed hs hok)
  · exact ⟨e, heq⟩

/-- Settles O29: the state afterwards is `State.raiseFail`'s, in a header capture that of the state with the byte
captured. -/
theorem failureEntryKeepsAllButCause : Obligations.FailureEntryKeepsAllButCause := by
  refine ⟨fun s e => ?entry, fun s t b hp _ h ht => ?capture⟩
  case entry =>
    have hbusy := s.raiseFail_busy e
    refine ⟨s.raiseFail e, exec_fail e s, s.raiseFail_eq e, s.raiseFail_bank_active e, fun a => ?_,
      exec_eos_notBusy hbusy, exec_byte_notBusy hbusy⟩
    rw [s.raiseFail_bank_work e, Bank.find_unspecified]
  case capture =>
    obtain ⟨e, rfl⟩ := exec_hcap_eq_failed hp h ht
    exact ⟨(s.capture b).raiseFail_eq e, (s.capture b).raiseFail_bank_active e⟩

end Sys2Proof.Machine
end

section
/-! SUPPORT. Outside BUSY (R16): which inputs are an event there, what the host reads leave alone, and the statement O46
about them (R197). -/

namespace Sys2Proof.Machine

/-- Outside BUSY the only events are RESET, START and the host reads: no beat is accepted (R41, R42, R43). -/
theorem decode_notBusy {sel : Selector} (hb : sel.phase.busy = false) {x : Input} {i : Instr}
    (h : decode sel x = .ok i) : i = .reset ∨ i = .start ∨ (∃ n, i = .rdreg n) ∨ ∃ a, i = .rdpix a := by
  cases x with
  | edge p =>
    rw [decode_edge, hb] at h
    cases hr : p.rst with
    | true => rw [decodeEdge_reset hr] at h; cases h; exact .inl rfl
    | false =>
      cases hs : p.start with
      | true => rw [decodeEdge_start hr hs] at h; cases h; exact .inr (.inl rfl)
      | false => rw [decodeEdge_notBusy_noStart hr hs] at h; cases h
  | readPix a =>
    rw [decode, decodeEvent] at h
    by_cases hfit : fitsSize sel.sz a = true
    · rw [if_pos hfit] at h; cases h; exact .inr (.inr (.inr ⟨a, rfl⟩))
    · rw [if_neg hfit] at h; cases h
  | readReg n => cases h; exact .inr (.inr (.inl ⟨n, rfl⟩))

/-- RDREG writes the read port alone (R99). -/
theorem exec_rdreg_sameBlock {s t : State} {n : BitVec 6} (h : exec (.rdreg n) s = .next t) : s.sameBlock t := by
  cases h
  rfl

/-- RDPIX writes the read port alone (R176). -/
theorem exec_rdpix_sameBlock {s t : State} {a : Nat} (h : exec (.rdpix a) s = .next t) : s.sameBlock t := by
  change execRdpix a s = .next t at h
  rw [execRdpix] at h
  by_cases hbeyond : s.rdOk a = true ∧ s.cfg.cap ≤ a
  · rw [if_pos hbeyond] at h; cases h
  · rw [if_neg hbeyond] at h; cases h; rfl

/-- Taking an input from the environment's list leaves the block (log 1). -/
theorem State.sameBlock_of_inbox {s t : State} {rest : List Input} (h : State.sameBlock { s with inbox := rest } t) :
    s.sameBlock t := h

/-- Outside BUSY a step whose input is neither RESET nor START leaves the block (R95, R197). -/
theorem step_notBusy_sameBlock {s t : State} (hb : s.busy = false) {x : Input} {rest : List Input}
    (hin : s.inbox = x :: rest) (h : step s = .next t) (hreset : decode s.selector x ≠ .ok .reset)
    (hstart : decode s.selector x ≠ .ok .start) : s.sameBlock t := by
  obtain ⟨-, ⟨hnil, -⟩ | ⟨y, ys, hcons, hstep⟩⟩ := step_cases h
  · rw [hin] at hnil; cases hnil
  obtain ⟨rfl, rfl⟩ := List.cons.inj (hin.symm.trans hcons)
  rcases hstep with ⟨-, -, rfl⟩ | ⟨i, hi, hexec⟩
  · rfl
  rcases decode_notBusy (sel := s.selector) hb hi with rfl | rfl | ⟨n, rfl⟩ | ⟨a, rfl⟩
  · exact absurd hi hreset
  · exact absurd hi hstart
  · exact State.sameBlock_of_inbox (exec_rdreg_sameBlock hexec)
  · exact State.sameBlock_of_inbox (exec_rdpix_sameBlock hexec)

/-- FAILED, DONE and IDLE are outside BUSY (R16). -/
theorem State.busy_eq_false_of_phase {s : State} (h : s.phase = .failed ∨ s.phase = .done ∨ s.phase = .idle) :
    s.busy = false := by
  rcases h with h | h | h <;> rw [State.busy, h] <;> rfl

/-- Settles O46: the three phases are outside BUSY, where START is `State.beginLoad` and RESET is `State.toReset`. -/
theorem onlyStartOrResetLeavesFailed : Obligations.OnlyStartOrResetLeavesFailed := by
  intro s hp
  have hb := State.busy_eq_false_of_phase hp
  exact ⟨fun t x rest => step_notBusy_sameBlock hb,
    ⟨s.beginLoad, exec_start_notBusy hb, s.beginLoad_phase, s.beginLoad_err, s.beginLoad_hdrAt⟩,
    ⟨s.toReset, rfl, s.toReset_phase⟩⟩

end Sys2Proof.Machine
end

section
/-! SUPPORT. The decoder against the encoder (R40 to R43, R74, R83): the operation each position selects, everything the
decoder can answer, and the statements O1, O2, O4 and O5 about them. -/

namespace Sys2Proof

/-! ### The operation of a position -/

section
variable {sel : Selector} (b : Byte)

theorem streamOp_fhdr (hp : sel.phase = .fhdr) : streamOp sel b = fileHeaderOp sel.hoff.toNat b := by
  rw [streamOp, hp]

theorem streamOp_ihdr (hp : sel.phase = .ihdr) : streamOp sel b = infoHeaderOp sel.hoff.toNat b := by
  rw [streamOp, hp]

theorem streamOp_pix (hp : sel.phase = .pix) : streamOp sel b = if sel.bpp = 24 then .pix24 b else .pix32 b := by
  rw [streamOp, hp]

theorem streamOp_pad (hp : sel.phase = .pad) : streamOp sel b = .padskip b := by
  rw [streamOp, hp]

end

/-- Settles O4: each range of offsets is one row of the two header tables. -/
theorem streamOperationSelectedBySequencer : Obligations.StreamOperationSelectedBySequencer := by
  intro sel b
  refine ⟨fun hp => ?fhdr, fun hp => ?ihdr, fun hp hbpp => ?pix24, fun hp hbpp => ?pix32, fun hp => streamOp_pad b hp⟩
  case fhdr =>
    rw [streamOp_fhdr b hp]
    refine ⟨?_, ?_, ?_, ?_, ?_⟩ <;> intros <;> simp (disch := omega) only [fileHeaderOp, if_pos, if_neg]
  case ihdr =>
    rw [streamOp_ihdr b hp]
    refine ⟨?_, ?_, ?_, ?_, ?_, ?_, ?_, ?_, ?_, ?_, ?_⟩ <;> intros <;>
      simp (disch := omega) only [infoHeaderOp, if_pos, if_neg]
  case pix24 => rw [streamOp_pix b hp, if_pos hbpp]
  case pix32 => rw [streamOp_pix b hp, if_neg (by rw [hbpp]; decide)]

/-! ### From a selected operation to its input and back -/

/-- An operation that a beat presents is what the position makes of the beat's byte (R74). -/
theorem streamOp_of_selectedAt {sel : Selector} {i : Instr} {b : Byte} (hx : encode i = some (.edge (.beat b)))
    (hsel : i.selectedAt sel = true) : streamOp sel b = i := by
  cases i with
  | reset | start | eos => simp [encode, Pins.beat, Pins.resetEdge, Pins.startEdge, Pins.eosBeat] at hx
  | rdreg n | rdpix a | hcap c | sigchk c | validate | alloc | rowchk | pixdone r g bl a | rowend | finalize | fail e =>
    simp [encode] at hx
  | byte c =>
    obtain rfl : c = b := by simpa [encode, Pins.beat] using hx
    simp only [Instr.selectedAt, Instr.format, Bool.or_eq_true, Bool.and_eq_true, beq_iff_eq, decide_eq_true_eq] at hsel
    rcases hsel with ⟨hp, hoff⟩ | ⟨hp, hoff⟩
    · rw [streamOp_fhdr c hp]
      simp (disch := omega) only [fileHeaderOp, if_neg]
    · rw [streamOp_ihdr c hp]
      rcases hoff with hoff | hoff <;> simp (disch := omega) only [infoHeaderOp, if_pos, if_neg]
  | fhSig c | fhFsize c | fhRsv1 c | fhRsv2 c | fhOffbits c =>
    obtain rfl : c = b := by simpa [encode, Pins.beat] using hx
    simp only [Instr.selectedAt, Instr.format, Instr.spans, Instr.span, Bool.and_eq_true, beq_iff_eq,
      decide_eq_true_eq] at hsel
    obtain ⟨hp, hlo, hhi⟩ := hsel
    rw [streamOp_fhdr c hp]
    simp (disch := omega) only [fileHeaderOp, if_pos, if_neg]
  | ihSize c | ihWidth c | ihHeight c | ihPlanes c | ihBpp c | ihCompr c | ihImgsize c | ihXppm c | ihYppm c
  | ihClrused c | ihClrimp c =>
    obtain rfl : c = b := by simpa [encode, Pins.beat] using hx
    simp only [Instr.selectedAt, Instr.format, Instr.spans, Instr.span, Bool.and_eq_true, beq_iff_eq,
      decide_eq_true_eq] at hsel
    obtain ⟨hp, hlo, hhi⟩ := hsel
    rw [streamOp_ihdr c hp]
    simp (disch := omega) only [infoHeaderOp, if_pos, if_neg]
  | pix24 c =>
    obtain rfl : c = b := by simpa [encode, Pins.beat] using hx
    simp only [Instr.selectedAt, Instr.format, Bool.and_eq_true, beq_iff_eq] at hsel
    rw [streamOp_pix c hsel.1, if_pos hsel.2]
  | pix32 c =>
    obtain rfl : c = b := by simpa [encode, Pins.beat] using hx
    simp only [Instr.selectedAt, Instr.format, Bool.and_eq_true, beq_iff_eq, bne_iff_ne] at hsel
    rw [streamOp_pix c hsel.1, if_neg hsel.2]
  | padskip c =>
    obtain rfl : c = b := by simpa [encode, Pins.beat] using hx
    exact streamOp_pad c (by simpa [Instr.selectedAt, Instr.format] using hsel)

/-- Only a BUSY position selects an operation that a beat presents (R41). -/
theorem busy_of_selectedAt {sel : Selector} {i : Instr} {b : Byte} (hx : encode i = some (.edge (.beat b)))
    (hsel : i.selectedAt sel = true) : sel.phase.busy = true := by
  have hop := streamOp_of_selectedAt hx hsel
  cases hp : sel.phase with
  | fhdr | ihdr | pix | pad => rfl
  | idle | done | failed =>
    obtain rfl : Instr.byte b = i := by rw [← hop, streamOp, hp]
    simp [Instr.selectedAt, Instr.format, hp] at hsel

/-- Settles O1: the five host events by their own inputs, every stream operation by the beat of its byte. -/
theorem decodeOfEncodeIsTheInstruction : Obligations.DecodeOfEncodeIsTheInstruction := by
  intro sel i hwf hsel
  have hbeat {b : Byte} (hx : encode i = some (.edge (.beat b))) : decode sel (.edge (.beat b)) = .ok i := by
    rw [decode_beat b (busy_of_selectedAt hx hsel), streamOp_of_selectedAt hx hsel]
  cases i with
  | reset => exact ⟨_, rfl, rfl⟩
  | start =>
    refine ⟨_, rfl, ?_⟩
    rw [decode_edge, show sel.phase.busy = false by simpa [Instr.selectedAt, Instr.format] using hsel]
    rfl
  | eos =>
    refine ⟨_, rfl, ?_⟩
    rw [decode_edge, show sel.phase.busy = true from hsel]
    rfl
  | rdreg n => exact ⟨_, rfl, rfl⟩
  | rdpix a =>
    refine ⟨_, rfl, ?_⟩
    rw [decode, decodeEvent, if_pos (show fitsSize sel.sz a = true from hwf)]
    rfl
  | byte c | fhSig c | fhFsize c | fhRsv1 c | fhRsv2 c | fhOffbits c | ihSize c | ihWidth c | ihHeight c | ihPlanes c
  | ihBpp c | ihCompr c | ihImgsize c | ihXppm c | ihYppm c | ihClrused c | ihClrimp c | pix24 c | pix32 c | padskip c =>
    exact ⟨_, rfl, hbeat rfl⟩
  | hcap c | sigchk c | fail e | pixdone r g bl a | validate | alloc | rowchk | rowend | finalize =>
    simp [Instr.selectedAt, Instr.format] at hsel

/-! ### Everything the decoder can answer -/

/-- The events of an edge, with the BUSY each needs (R42). -/
theorem decodeEdge_cases {busy : Bool} {p : Pins} {e : Instr} (h : decodeEdge busy p = .ok e) :
    e = .reset ∨ (e = .start ∧ busy = false) ∨ (e = .eos ∧ busy = true) ∨ ∃ b, e = .byte b ∧ busy = true := by
  cases hr : p.rst with
  | true => rw [decodeEdge_reset hr] at h; cases h; exact .inl rfl
  | false =>
    cases busy with
    | false =>
      cases hs : p.start with
      | true => rw [decodeEdge_start hr hs] at h; cases h; exact .inr (.inl ⟨rfl, rfl⟩)
      | false => rw [decodeEdge_notBusy_noStart hr hs] at h; cases h
    | true =>
      cases hv : p.inValid with
      | false => rw [decodeEdge_busy_noBeat hr hv] at h; cases h
      | true =>
        rw [decodeEdge_accepted hr hv] at h
        cases heos : p.inEos with
        | true => rw [heos] at h; cases h; exact .inr (.inr (.inl ⟨rfl, rfl⟩))
        | false => rw [heos] at h; cases h; exact .inr (.inr (.inr ⟨_, rfl, rfl⟩))

/-- The events of an input, with the condition each needs (R42, R43). -/
theorem decodeEvent_cases {busy : Bool} {sz : Nat} {x : Input} {e : Instr} (h : decodeEvent busy sz x = .ok e) :
    (e = .reset ∨ (e = .start ∧ busy = false) ∨ (e = .eos ∧ busy = true) ∨ ∃ b, e = .byte b ∧ busy = true) ∨
      (∃ n, e = .rdreg n) ∨ ∃ a, e = .rdpix a ∧ fitsSize sz a = true := by
  cases x with
  | edge p => exact .inl (decodeEdge_cases h)
  | readReg n => cases h; exact .inr (.inl ⟨n, rfl⟩)
  | readPix a =>
    rw [decodeEvent] at h
    by_cases hfit : fitsSize sz a = true
    · rw [if_pos hfit] at h; cases h; exact .inr (.inr ⟨a, rfl, hfit⟩)
    · rw [if_neg hfit] at h; cases h

/-- The decoder answers an event, refined by the position (R74). -/
theorem decode_eq_ok {sel : Selector} {x : Input} {i : Instr} (h : decode sel x = .ok i) :
    ∃ e, decodeEvent sel.phase.busy sel.sz x = .ok e ∧ i = refine sel e := by
  rw [decode] at h
  cases he : decodeEvent sel.phase.busy sel.sz x with
  | error r => rw [he] at h; cases h
  | ok e => rw [he] at h; exact ⟨e, rfl, (Except.ok.inj h).symm⟩

/-- Of a BUSY position every byte is an operation that the position selects. -/
theorem streamOp_selectedAt {sel : Selector} (hb : sel.phase.busy = true) (b : Byte) :
    (streamOp sel b).wf sel.sz = true ∧ (streamOp sel b).selectedAt sel = true ∧ (streamOp sel b).format ≠ .internal := by
  rcases sel.phase.busy_iff.mp hb with hp | hp | hp | hp
  · rw [streamOp_fhdr b hp]
    rcases fileHeaderOp_cases sel.hoff.toNat b with ⟨hhi, hop⟩ | ⟨hlo, hhi, hop⟩ | ⟨hlo, hhi, hop⟩ | ⟨hlo, hhi, hop⟩ |
      ⟨hlo, hhi, hop⟩ | ⟨hlo, hop⟩ <;>
    simp [Instr.wf, Instr.selectedAt, Instr.format, Instr.spans, Instr.span, *]
  · rw [streamOp_ihdr b hp]
    rcases infoHeaderOp_cases sel.hoff.toNat b with ⟨hhi, hop⟩ | ⟨hlo, hhi, hop⟩ | ⟨hlo, hhi, hop⟩ | ⟨hlo, hhi, hop⟩ |
      ⟨hlo, hhi, hop⟩ | ⟨hlo, hhi, hop⟩ | ⟨hlo, hhi, hop⟩ | ⟨hlo, hhi, hop⟩ | ⟨hlo, hhi, hop⟩ | ⟨hlo, hhi, hop⟩ |
      ⟨hlo, hhi, hop⟩ | ⟨hlo, hhi, hop⟩ | ⟨hlo, hop⟩ <;>
    simp [Instr.wf, Instr.selectedAt, Instr.format, Instr.spans, Instr.span, *]
  · rw [streamOp_pix b hp]
    by_cases hbpp : sel.bpp = 24
    · simp [Instr.wf, Instr.selectedAt, Instr.format, hp, hbpp]
    · rw [if_neg hbpp]
      simpa [Instr.wf, Instr.selectedAt, Instr.format, hp] using hbpp
  · simp [streamOp_pad b hp, hp, Instr.wf, Instr.selectedAt, Instr.format]

/-- Settles O2: the five host events each under its own condition, a byte by the position it is refined at. -/
theorem decodedIsWellFormedAndSelected : Obligations.DecodedIsWellFormedAndSelected := by
  intro sel x i h
  obtain ⟨e, he, rfl⟩ := decode_eq_ok h
  rcases decodeEvent_cases he with (rfl | ⟨rfl, hb⟩ | ⟨rfl, hb⟩ | ⟨b, rfl, hb⟩) | ⟨n, rfl⟩ | ⟨a, rfl, ha⟩
  case inl.inr.inr.inr => exact streamOp_selectedAt hb b
  all_goals simp [refine, Instr.wf, Instr.selectedAt, Instr.format, *]

/-- Settles O5, word by word. -/
theorem encodedWordsDecode : Obligations.EncodedWordsDecode := by
  unfold Obligations.EncodedWordsDecode
  refine ⟨?_, ?_, ?_, ?_, ?_, ?_, ?_, ?_, ?_, ?_, ?_, ?_⟩ <;> rfl

end Sys2Proof
end

section
/-! SUPPORT. One step: the oldest input is taken and its event is run (R8, R10), and the statements O6 and O7 about
it. -/

namespace Sys2Proof.Machine

/-- Settles O6: the branch of `step` for an input that decodes. -/
theorem stepRunsDecodedInstruction : Obligations.StepRunsDecodedInstruction := by
  intro s x rest i hwf hin hi
  simp only [step, hwf, hin, hi, if_true]

/-- Settles O7: the other branches of `step`. -/
theorem stepWithoutEventChangesNothing : Obligations.StepWithoutEventChangesNothing := by
  intro s
  refine ⟨fun hwf hin => ?waits, fun x rest e hwf hin he hne => ?noEvent, fun x rest hwf hin he => ?tooWide,
    fun hwf => ?parameters⟩
  case waits => simp only [step, hwf, hin, if_true]
  case noEvent =>
    simp only [step, hwf, hin, he, if_true]
    cases e with
    | idleEdge | beatNotReady | startWhileBusy => rfl
    | addressTooWide => exact absurd rfl hne
  case tooWide => simp only [step, hwf, hin, he, if_true]
  case parameters => simp only [step, hwf, Bool.false_eq_true, if_false]

/-- The refined operation does what its event does (R74, R95). -/
theorem exec_refine (s : State) (e : Instr) : exec (refine s.selector e) s = exec e s := by
  cases e with
  | byte b => exact exec_streamOp s b
  | _ => rfl

/-- A step in terms of the events of R8: it waited, took an input without an event, or ran the input's event. -/
theorem step_eq_next {s t : State} (h : step s = .next t) :
    s.cfg.wf = true ∧
      ((s.inbox = [] ∧ t = s) ∨
        ∃ x rest, s.inbox = x :: rest ∧
          (t = { s with inbox := rest } ∨
            ∃ e, decodeEvent s.busy s.cfg.sz x = .ok e ∧ exec e { s with inbox := rest } = .next t)) := by
  obtain ⟨hwf, hstep⟩ := step_cases h
  refine ⟨hwf, hstep.imp id fun ⟨x, rest, hin, hx⟩ => ⟨x, rest, hin, hx.imp (fun ⟨_, _, ht⟩ => ht) ?_⟩⟩
  rintro ⟨i, hi, hexec⟩
  obtain ⟨e, he, rfl⟩ := decode_eq_ok hi
  exact ⟨e, he, (exec_refine { s with inbox := rest } e).symm.trans hexec⟩

/-- With an input presented, a step takes it, without an event or with the operation it decodes to. -/
theorem step_cons {s t : State} {x : Input} {rest : List Input} (hin : s.inbox = x :: rest) (h : step s = .next t) :
    t = { s with inbox := rest } ∨ ∃ i, decode s.selector x = .ok i ∧ exec i { s with inbox := rest } = .next t := by
  obtain ⟨-, ⟨hnil, -⟩ | ⟨y, ys, hcons, hstep⟩⟩ := step_cases h
  · cases hin.symm.trans hnil
  · obtain ⟨rfl, rfl⟩ := List.cons.inj (hin.symm.trans hcons)
    exact hstep.imp_left fun ⟨_, _, ht⟩ => ht

/-- A step takes an input and runs its event. -/
theorem step_of_event {s : State} {x : Input} {rest : List Input} {e : Instr} (hwf : s.cfg.wf = true)
    (he : decodeEvent s.busy s.cfg.sz x = .ok e) :
    step { s with inbox := x :: rest } = exec e { s with inbox := rest } := by
  have hi : decode s.selector x = .ok (refine s.selector e) :=
    (congrArg (Except.map (refine s.selector)) he).trans rfl
  exact (stepRunsDecodedInstruction { s with inbox := x :: rest } x rest _ hwf rfl hi).trans
    (exec_refine { s with inbox := rest } e)

end Sys2Proof.Machine
end

section
/-! SUPPORT. The invariant by PHASE: what it says of the committed image at any time, and what it says of the load in
each phase; and the states that enter a phase. -/

namespace Sys2Proof.Machine

/-- The captured bytes begin with the signature (R46). -/
abbrev State.Signed (s : State) : Prop := s.hdrAt 0 = 0x42 ∧ s.hdrAt 1 = 0x4D

/-- What the invariant says of the parameters, the committed image and the form of the banks, whatever the phase. -/
structure State.ImageOk (s : State) : Prop where
  parameters : s.cfg.wf = true
  committed : s.imgValid = true → s.imgLen = s.imgW.toNat * s.imgH.toNat ∧ 1 ≤ s.imgLen ∧ s.imgLen ≤ s.cfg.cap
  empty : s.imgValid = false → s.imgW = 0 ∧ s.imgH = 0 ∧ s.imgLen = 0 ∧ s.active = false
  banks : s.banksWf
  specified : s.imgValid = true → ∀ a, a < s.imgLen → (s.committed.find a).isSome = true

/-- The work-bank index at which the memory row of the file row LINE begins (R165). -/
def State.rowStart (s : State) : Nat := (s.h - 1 - s.line.toNat) * s.w

/-- The pixel at this index is already stored: it is in a finished row, or in the finished part of the row (R52). -/
def State.finished (s : State) (a : Nat) : Prop :=
  s.rowStart + s.w ≤ a ∨ (s.rowStart ≤ a ∧ (s.phase = .pix → a < s.rowStart + s.col.toNat))

/-- The scanline loop with every stored pixel of the image meeting `Q`. -/
structure State.RowsInv (Q : Nat → Pixel → Prop) (s : State) : Prop extends s.Scanning where
  signed : s.Signed
  compr : s.compr = 0
  hoff : s.hoff = 53
  err : s.err = .none
  padcnt : s.phase = .pix → s.padcnt = 0
  filled : ∀ a, a < s.npix → s.finished a → ∃ p, s.work.find a = some p ∧ Q a p

/-- A committed load with every pixel of the image meeting `Q`. -/
structure State.Loaded (Q : Nat → Pixel → Prop) (s : State) : Prop where
  phase : s.phase = .done
  hoff : s.hoff = 53
  err : s.err = .none
  valid : s.imgValid = true
  dimensions : s.imgW = s.width ∧ s.imgH = s.height
  length : s.imgLen = s.npix
  filled : ∀ a, a < s.imgLen → ∃ p, s.committed.find a = some p ∧ Q a p

/-- A pixel that is stored, whatever its value. -/
abbrev anyPixel (_ : Nat) (_ : Pixel) : Prop := True

/-- What the invariant says of the load in each phase. -/
def State.PhaseOk (s : State) : Prop :=
  match s.phase with
  | .idle => s.npix = 0 ∧ s.err = .none
  | .fhdr => s.hoff.toNat ≤ 13 ∧ (2 ≤ s.hoff.toNat → s.Signed) ∧ s.npix = 0 ∧ s.err = .none
  | .ihdr => (14 ≤ s.hoff.toNat ∧ s.hoff.toNat ≤ 53) ∧ s.Signed ∧ s.npix = 0 ∧ s.err = .none
  | .pix | .pad => s.RowsInv anyPixel
  | .done => s.Loaded anyPixel
  | .failed => s.err ≠ .none

theorem exists_and_anyPixel {b : Bank} {a : Nat} : (∃ p, b.find a = some p ∧ anyPixel a p) ↔ (b.find a).isSome = true := by
  simp [Option.isSome_iff_exists]

theorem State.Inv.imageOk {s : State} (h : s.Inv) : s.ImageOk :=
  ⟨h.parameters, h.committed, h.empty, ⟨h.bank0, h.bank1⟩, h.committedSpecified⟩

theorem State.Inv.err_none {s : State} (h : s.Inv) (hp : s.phase ≠ .failed) : s.err = .none :=
  Classical.not_not.mp fun he => hp (h.failure.mp he)

theorem State.finished_pix {s : State} (hp : s.phase = .pix) (a : Nat) :
    s.finished a ↔ s.rowStart + s.w ≤ a ∨ (s.rowStart ≤ a ∧ a < s.rowStart + s.col.toNat) := by
  simp [State.finished, hp]

/-- In PAD the row is finished too. -/
theorem State.finished_pad {s : State} (hp : s.phase = .pad) (a : Nat) : s.finished a ↔ s.rowStart ≤ a := by
  simp only [State.finished, hp, reduceCtorEq, false_implies, and_true]
  omega

theorem State.Inv.rowsInv {s : State} (h : s.Inv) (hr : s.inRows) : s.RowsInv anyPixel := by
  obtain ⟨-, -, -, hcompr, -⟩ := h.validated hr
  refine ⟨h.scanning hr, h.signature (.inr (.inr hr)), hcompr, h.hoffKept (.inl hr), ?_,
    fun hp => (h.pixel hp).2.2, fun a ha hfin => exists_and_anyPixel.mpr ?_⟩
  · exact h.err_none (by rcases hr with hp | hp <;> rw [hp] <;> exact nofun)
  · rcases hr with hp | hp
    · exact h.rowsWritten hp a ha ((State.finished_pix hp a).mp hfin)
    · exact h.rowWritten hp a ha ((State.finished_pad hp a).mp hfin)

theorem State.Inv.loaded {s : State} (h : s.Inv) (hp : s.phase = .done) : s.Loaded anyPixel := by
  obtain ⟨hv, hw, hh, hlen⟩ := h.done hp
  exact ⟨hp, h.hoffKept (.inr hp), h.err_none (by rw [hp]; exact nofun), hv, ⟨hw, hh⟩, hlen,
    fun a ha => exists_and_anyPixel.mpr (h.committedSpecified hv a ha)⟩

/-- The invariant is what it says of the image, of NPIX, and of the load in the phase at hand. -/
theorem State.inv_iff (s : State) : s.Inv ↔ s.ImageOk ∧ s.npix ≤ s.cfg.cap ∧ s.PhaseOk := by
  constructor
  · intro h
    refine ⟨h.imageOk, h.sized, ?_⟩
    unfold State.PhaseOk
    cases hp : s.phase with
    | idle => exact ⟨h.notSized (.inl hp), h.err_none (by rw [hp]; exact nofun)⟩
    | fhdr =>
      exact ⟨h.fileHeader hp, fun h2 => h.signature (.inl ⟨hp, h2⟩), h.notSized (.inr (.inl hp)),
        h.err_none (by rw [hp]; exact nofun)⟩
    | ihdr =>
      exact ⟨h.infoHeader hp, h.signature (.inr (.inl hp)), h.notSized (.inr (.inr hp)),
        h.err_none (by rw [hp]; exact nofun)⟩
    | pix => exact h.rowsInv (.inl hp)
    | pad => exact h.rowsInv (.inr hp)
    | done => exact h.loaded hp
    | failed => exact h.failure.mpr hp
  · rintro ⟨himg, hcap, hphase⟩
    have hrows (hr : s.inRows) : s.RowsInv anyPixel := by
      rcases hr with hp | hp <;> simpa only [State.PhaseOk, hp] using hphase
    have hdone (hp : s.phase = .done) : s.Loaded anyPixel := by simpa only [State.PhaseOk, hp] using hphase
    constructor
    case parameters => exact himg.parameters
    case committed => exact himg.committed
    case empty => exact himg.empty
    case bank0 => exact himg.banks.1
    case bank1 => exact himg.banks.2
    case committedSpecified => exact himg.specified
    case sized => exact hcap
    case fileHeader => intro hp; simp only [State.PhaseOk, hp] at hphase; exact hphase.1
    case infoHeader => intro hp; simp only [State.PhaseOk, hp] at hphase; exact hphase.1
    case signature =>
      rintro (⟨hp, h2⟩ | hp | hr)
      · simp only [State.PhaseOk, hp] at hphase; exact hphase.2.1 h2
      · simp only [State.PhaseOk, hp] at hphase; exact hphase.2.1
      · exact (hrows hr).signed
    case notSized =>
      rintro (hp | hp | hp) <;> simp only [State.PhaseOk, hp] at hphase
      · exact hphase.1
      · exact hphase.2.2.1
      · exact hphase.2.2.1
    case validated =>
      intro hr
      have h := hrows hr
      exact ⟨h.dimensions.1, h.dimensions.2, h.depth, h.compr, h.product, h.line⟩
    case hoffKept =>
      rintro (hr | hp)
      · exact (hrows hr).hoff
      · exact (hdone hp).hoff
    case pixel =>
      intro hp
      have h := hrows (.inl hp)
      rcases h.place with ⟨-, hcol, hkb⟩ | ⟨hpad, -⟩
      · exact ⟨hcol, hkb, h.padcnt hp⟩
      · rw [hp] at hpad; cases hpad
    case padding =>
      intro hp
      rcases (hrows (.inr hp)).place with ⟨hpix, -⟩ | ⟨-, hcnt, hcol, hkb⟩
      · rw [hp] at hpix; cases hpix
      · exact ⟨by omega, hcnt, hcol, hkb⟩
    case failure =>
      cases hp : s.phase <;> simp only [State.PhaseOk, hp] at hphase
      case failed => simpa using hphase
      case pix | pad | done => simp [hphase.err]
      all_goals simp [hphase]
    case done =>
      intro hp
      have h := hdone hp
      exact ⟨h.valid, h.dimensions.1, h.dimensions.2, h.length⟩
    case rowsWritten =>
      intro hp a ha hfin
      exact exists_and_anyPixel.mp ((hrows (.inl hp)).filled a ha ((State.finished_pix hp a).mpr hfin))
    case rowWritten =>
      intro hp a ha hfin
      exact exists_and_anyPixel.mp ((hrows (.inr hp)).filled a ha ((State.finished_pad hp a).mpr hfin))

/-! ### Entering a phase -/

section
variable {s : State} (himg : s.ImageOk)
include himg

theorem State.ImageOk.inv_fhdr (hp : s.phase = .fhdr) (hoff : s.hoff.toNat ≤ 13) (hsig : 2 ≤ s.hoff.toNat → s.Signed)
    (hn : s.npix = 0) (he : s.err = .none) : s.Inv :=
  s.inv_iff.mpr ⟨himg, hn ▸ Nat.zero_le _, by simp only [State.PhaseOk, hp]; exact ⟨hoff, hsig, hn, he⟩⟩

theorem State.ImageOk.inv_ihdr (hp : s.phase = .ihdr) (hoff : 14 ≤ s.hoff.toNat ∧ s.hoff.toNat ≤ 53) (hsig : s.Signed)
    (hn : s.npix = 0) (he : s.err = .none) : s.Inv :=
  s.inv_iff.mpr ⟨himg, hn ▸ Nat.zero_le _, by simp only [State.PhaseOk, hp]; exact ⟨hoff, hsig, hn, he⟩⟩

theorem State.ImageOk.inv_rows (h : s.RowsInv anyPixel) : s.Inv := by
  refine s.inv_iff.mpr ⟨himg, h.fits, ?_⟩
  rcases h.place with ⟨hp, -⟩ | ⟨hp, -⟩ <;> simpa only [State.PhaseOk, hp] using h

theorem State.ImageOk.inv_loaded (hcap : s.npix ≤ s.cfg.cap) (h : s.Loaded anyPixel) : s.Inv :=
  s.inv_iff.mpr ⟨himg, hcap, by simpa only [State.PhaseOk, h.phase] using h⟩

theorem State.ImageOk.inv_failed (hcap : s.npix ≤ s.cfg.cap) (hp : s.phase = .failed) (he : s.err ≠ .none) : s.Inv :=
  s.inv_iff.mpr ⟨himg, hcap, by simpa only [State.PhaseOk, hp] using he⟩

end

end Sys2Proof.Machine
end

section
/-! SUPPORT. The steps that enter a phase, up to the end of the header, keep the invariant (R90, R91, R96, R193), and
the statement O39 about the reset state. -/

namespace Sys2Proof.Machine

/-- What is said of the image carries over to a state with the same image and parameters and canonical banks. -/
theorem State.ImageOk.of_sameImage {s t : State} (h : s.ImageOk) (hcfg : t.cfg = s.cfg) (he : s.sameImage t)
    (hb : t.banksWf) : t.ImageOk := by
  obtain ⟨hvalid, hw, hh, hlen, hactive, hbank⟩ := he
  refine ⟨?_, ?_, ?_, hb, ?_⟩
  · rw [hcfg]; exact h.parameters
  · rw [hcfg, ← hvalid, ← hw, ← hh, ← hlen]; exact h.committed
  · rw [← hvalid, ← hw, ← hh, ← hlen, ← hactive]; exact h.empty
  · rw [← hvalid, ← hlen, ← hbank]; exact h.specified

/-- The record of the environment does not matter to the invariant (logs 1, 9). -/
theorem State.Inv.of_sameBlock {s t : State} (h : s.Inv) (he : s.sameBlock t) : t.Inv := by
  have hsame : State.Inv { s with port := t.port, inbox := t.inbox } := { h with }
  exact he ▸ hsame

/-- RESET meets the invariant (R29, R90). -/
theorem State.toReset_inv {s : State} (h : s.cfg.wf = true) : s.toReset.Inv :=
  (s.toReset.inv_iff).mpr
    ⟨⟨h, nofun, fun _ => ⟨rfl, rfl, rfl, rfl⟩, s.toReset_banksWf, nofun⟩, Nat.zero_le _, rfl, rfl⟩

/-- Settles O39: the reset state is idle and holds no image. -/
theorem resetMeetsTheInvariant : Obligations.ResetMeetsTheInvariant := fun cfg h =>
  ((State.resetFor cfg).inv_iff).mpr
    ⟨⟨h, nofun, fun _ => ⟨rfl, rfl, rfl, rfl⟩, State.resetFor_banksWf cfg, nofun⟩, Nat.zero_le _, rfl, rfl⟩

/-- START meets the invariant: the image stays and the header begins (R91). -/
theorem State.Inv.beginLoad {s : State} (h : s.Inv) : s.beginLoad.Inv :=
  have himg := h.imageOk.of_sameImage (t := s.beginLoad) rfl ⟨rfl, rfl, rfl, rfl, rfl, rfl⟩ h.imageOk.banks
  himg.inv_fhdr rfl (Nat.zero_le _) (fun h2 => absurd (show 2 ≤ 0 from h2) (by decide)) rfl rfl

/-- Failure entry meets the invariant: the image stays (R193). -/
theorem State.raiseFail_inv {s : State} (himg : s.ImageOk) (hcap : s.npix ≤ s.cfg.cap) {e : ErrCode} (he : e ≠ .none) :
    (s.raiseFail e).Inv := by
  have himg' := himg.of_sameImage (s.raiseFail_cfg e) (s.raiseFail_sameImage e) (State.raiseFail_banksWf himg.banks e)
  refine himg'.inv_failed ?_ (s.raiseFail_phase e) he
  rw [s.raiseFail_npix e, s.raiseFail_cfg e]
  exact hcap

/-! ### A header byte (R96) -/

/-- A capture of a later byte leaves the signature. -/
theorem State.capture_signed {s : State} (h : s.Signed) (h2 : 2 ≤ s.hoff.toNat) (b : Byte) : (s.capture b).Signed := by
  rw [State.Signed, s.capture_hdrAt_other b (by omega), s.capture_hdrAt_other b (by omega)]
  exact h

/-- The codes with which a header byte fails (R116, R141, R144). -/
theorem afterCapture_fail {b : Byte} {s : State} {e : ErrCode} (h : afterCapture b s = .fail e) : e ≠ .none := by
  rcases afterCapture_cases b s with ⟨-, -, -, hc⟩ | ⟨-, hc⟩ | ⟨-, hc⟩ | ⟨-, hc⟩ | ⟨-, -, -, hc⟩ | ⟨-, hc⟩ <;>
    rw [hc] at h
  · cases h
  · cases h; exact nofun
  · cases h
  · rcases validate_cases s with ⟨-, -, -, -, hv⟩ | ⟨c, hcode, hv⟩ <;> rw [hv] at h
    · rw [Effect.bind_ok] at h
      rcases alloc_cases s with ⟨n, -, -, ha⟩ | ⟨c, hcode, ha⟩ <;> rw [ha] at h <;> cases h
      rcases hcode with rfl | rfl <;> exact nofun
    · cases h
      rcases hcode with rfl | rfl | rfl <;> exact nofun
  · cases h
  · cases h

/-- At the first pixel of the bottom row nothing of the image is stored yet (R144). -/
theorem State.not_finished_start {s : State} (hs : s.Sized) (hp : s.phase = .pix) (hline : s.line = 0) (hcol : s.col = 0)
    {a : Nat} (ha : a < s.npix) : ¬s.finished a := by
  obtain ⟨-, hh⟩ := hs.dimensions
  have hend : s.rowStart + s.w = s.npix := by
    rw [State.rowStart, hline, hs.product, ← Nat.succ_mul, Nat.mul_comm s.w]
    exact congrArg (· * s.w) (Nat.sub_add_cancel hh)
  rw [State.finished_pix hp, hcol]
  simp only [BitVec.ofNat_eq_ofNat, BitVec.toNat_zero]
  omega

/-- A judgement that passes begins the rows: the header is valid, and no pixel is stored yet (R141, R144). -/
theorem rowsInv_of_validate_alloc {s t : State} (hp : s.cfg.wf = true) (h53 : s.hoff = 53) (herr : s.err = .none)
    (hsig : s.Signed) (h : (validate s).bind alloc = .ok t) (Q : Nat → Pixel → Prop) : t.RowsInv Q := by
  obtain ⟨u, hu, halloc⟩ := Effect.bind_eq_ok h
  obtain rfl := eq_of_validate_eq_ok hu
  obtain ⟨hw, hh, hbpp, hcompr⟩ := (validate_eq_ok_iff u).mp hu
  rcases alloc_cases u with ⟨n, hn, hcap, ha⟩ | ⟨e, -, ha⟩
  · obtain rfl := Effect.ok.inj (ha.symm.trans halloc)
    have hdim : 1 ≤ u.w ∧ 1 ≤ u.h :=
      ⟨Nat.pos_of_ne_zero fun h0 => hw (BitVec.eq_of_toNat_eq h0),
        Nat.pos_of_ne_zero fun h0 => hh (BitVec.eq_of_toNat_eq h0)⟩
    have hsized : State.Sized { u with npix := n, line := 0, col := 0, kb := 0, padcnt := 0, phase := .pix } :=
      ⟨hp, hdim, hbpp, mulSize_some hn, hcap⟩
    have hB := hsized.bytesPerPixel
    exact ⟨⟨hsized, hdim.2, .inl ⟨rfl, hdim.1, Nat.pos_of_ne_zero (by omega)⟩⟩, hsig, hcompr, h53, herr, fun _ => rfl,
      fun a ha hfin => absurd hfin (State.not_finished_start hsized rfl rfl rfl ha)⟩
  · rw [ha] at halloc
    cases halloc

theorem State.hoff_toNat_ne {s : State} {v : BitVec 6} (h : s.hoff ≠ v) : s.hoff.toNat ≠ v.toNat :=
  fun he => h (BitVec.eq_of_toNat_eq he)

theorem State.toNat_hoff_add_one {s : State} (h : s.hoff.toNat < 54) : (s.hoff + 1).toNat = s.hoff.toNat + 1 :=
  toNat_add_one (by omega)

/-- What is said of the image holds as long as only the sequencer, the header and NPIX move. -/
theorem State.ImageOk.moveHeader {s : State} (h : s.ImageOk) (hdr : Vector Byte 54) (phase : Phase) (hoff : BitVec 6) :
    State.ImageOk { s with hdr := hdr, phase := phase, hoff := hoff } :=
  h.of_sameImage rfl ⟨rfl, rfl, rfl, rfl, rfl, rfl⟩ h.banks

/-- A byte of the file header that is accepted keeps the invariant (R96, R116). -/
theorem afterCapture_fhdr_inv {s t : State} {b : Byte} (h : s.Inv) (hp : s.phase = .fhdr)
    (ht : afterCapture b (s.capture b) = .ok t) : t.Inv := by
  have hle := h.fileHeader hp
  have hn := h.notSized (.inr (.inl hp))
  have herr := h.err_none (by rw [hp]; exact nofun)
  have hkept (h2 : 2 ≤ s.hoff.toNat) : (s.capture b).Signed := State.capture_signed (h.signature (.inl ⟨hp, h2⟩)) h2 b
  have hnext := State.toNat_hoff_add_one (s := s) (by omega)
  rcases afterCapture_cases b (s.capture b) with ⟨h1, h0, hb, hc⟩ | ⟨-, hc⟩ | ⟨h13, hc⟩ | ⟨h53, -⟩ | ⟨h1, h13, -, hc⟩ |
    ⟨hgt, -⟩
  · obtain rfl := Effect.ok.inj (hc.symm.trans ht)
    have h1 : s.hoff.toNat = 1 := congrArg BitVec.toNat (show s.hoff = 1 from h1)
    have hsecond : (s.capture b).hdrAt 1 = b := h1 ▸ s.capture_hdrAt_same b (by omega)
    refine (h.imageOk.moveHeader _ _ _).inv_fhdr hp ?_ (fun _ => ⟨h0, hsecond.trans hb⟩) hn herr
    exact Nat.le_trans (Nat.le_of_eq hnext) (by omega)
  · cases hc.symm.trans ht
  · obtain rfl := Effect.ok.inj (hc.symm.trans ht)
    have h13 : s.hoff.toNat = 13 := congrArg BitVec.toNat (show s.hoff = 13 from h13)
    refine (h.imageOk.moveHeader _ _ _).inv_ihdr rfl ?_ (hkept (by omega)) hn herr
    show 14 ≤ (s.hoff + 1).toNat ∧ (s.hoff + 1).toNat ≤ 53
    omega
  · have h53 : s.hoff.toNat = 53 := congrArg BitVec.toNat (show s.hoff = 53 from h53)
    omega
  · obtain rfl := Effect.ok.inj (hc.symm.trans ht)
    have h1 : s.hoff.toNat ≠ 1 := State.hoff_toNat_ne h1
    have h13 : s.hoff.toNat ≠ 13 := State.hoff_toNat_ne h13
    refine (h.imageOk.moveHeader _ _ _).inv_fhdr hp (Nat.le_trans (Nat.le_of_eq hnext) (by omega))
      (fun h2 => hkept ?_) hn herr
    have h2 : 2 ≤ (s.hoff + 1).toNat := h2
    omega
  · have hgt : 53 < s.hoff.toNat := hgt
    omega

/-- A byte of the info header that is accepted keeps the invariant, and the last one begins the rows (R96, R144). -/
theorem afterCapture_ihdr_inv {s t : State} {b : Byte} (h : s.Inv) (hp : s.phase = .ihdr)
    (ht : afterCapture b (s.capture b) = .ok t) : t.Inv := by
  obtain ⟨hge, hle⟩ := h.infoHeader hp
  have hn := h.notSized (.inr (.inr hp))
  have herr := h.err_none (by rw [hp]; exact nofun)
  have hsig : (s.capture b).Signed := State.capture_signed (h.signature (.inr (.inl hp))) (by omega) b
  by_cases h53 : s.hoff = 53
  · rw [afterCapture_last (s := s.capture b) b h53] at ht
    have hrows := rowsInv_of_validate_alloc (s := s.capture b) h.parameters h53 herr hsig ht anyPixel
    obtain ⟨u, hu, halloc⟩ := Effect.bind_eq_ok ht
    obtain rfl := eq_of_validate_eq_ok hu
    rcases alloc_cases (s.capture b) with ⟨n, -, -, ha⟩ | ⟨e, -, ha⟩
    · obtain rfl := Effect.ok.inj (ha.symm.trans halloc)
      refine State.ImageOk.inv_rows ?_ hrows
      exact h.imageOk.of_sameImage rfl ⟨rfl, rfl, rfl, rfl, rfl, rfl⟩ h.imageOk.banks
    · cases ha.symm.trans halloc
  · have hne : s.hoff.toNat ≠ 53 := State.hoff_toNat_ne h53
    have hnext := State.toNat_hoff_add_one (s := s) (by omega)
    have hplain : afterCapture b (s.capture b) = .ok { s.capture b with hoff := s.hoff + 1 } :=
      afterCapture_plain b (show s.hoff.toNat ≠ 1 by omega) (show s.hoff.toNat ≠ 13 by omega)
        (show s.hoff.toNat < 53 by omega)
    obtain rfl := Effect.ok.inj (hplain.symm.trans ht)
    refine (h.imageOk.moveHeader _ _ _).inv_ihdr hp ?_ hsig hn herr
    show 14 ≤ (s.hoff + 1).toNat ∧ (s.hoff + 1).toNat ≤ 53
    omega

/-- A header byte keeps the invariant, failing or not (R96, R193). -/
theorem exec_byte_header_inv {s t : State} {b : Byte} (h : s.Inv) (hp : s.phase = .fhdr ∨ s.phase = .ihdr)
    (ht : exec (.byte b) s = .next t) : t.Inv := by
  rw [exec_byte_header hp] at ht
  rcases settle_eq_next ht with hok | ⟨e, hfail, rfl⟩
  · rcases hp with hp | hp
    · exact afterCapture_fhdr_inv h hp hok
    · exact afterCapture_ihdr_inv h hp hok
  · exact State.raiseFail_inv (s := s.capture b) (h.imageOk.moveHeader _ s.phase s.hoff) h.sized (afterCapture_fail hfail)

end Sys2Proof.Machine
end

section
/-! SUPPORT. Everything an accepted byte of the rows can do (R163 to R165, R171, R172), as one relation between the
state before it and the state after it. -/

namespace Sys2Proof.Machine

/-- The pixel that a byte completes: its own value is red at 24 bits per pixel, alpha at 32 (R163, R164, R167). -/
def State.pixelOf (s : State) (b : Byte) : Pixel :=
  if s.bpp = 24 then pixelWord b s.pxg s.pxb 0x00 else pixelWord s.pxr s.pxg s.pxb b

/-- The state with a byte of an unfinished pixel held by its role (R162). -/
def State.holdByte (s : State) (b : Byte) : State :=
  { s with
    kb := s.kb + 1
    pxb := if s.kb = 0 then b else s.pxb, pxg := if s.kb = 1 then b else s.pxg, pxr := if s.kb = 2 then b else s.pxr }

/-- The state with the whole image committed (R174). -/
def State.commit (s : State) : State :=
  { s with
    active := !s.active, imgW := s.width, imgH := s.height, imgLen := s.npix, imgValid := true, phase := .done }

/-- The last byte of a row, a pixel's or a padding byte, taken, with ROWEND still to come (R165, R171). -/
inductive State.RowTaken (s : State) (b : Byte) : State → Prop where
  | pixel (hp : s.phase = .pix) (hkb : s.kb.toNat + 1 = s.bytesPerPixel) (hcol : s.col.toNat + 1 = s.w)
      (hpad : s.padlen = 0) : RowTaken s b { s.storePixel (s.pixelOf b) with kb := 0, col := 0 }
  | padding (hp : s.phase = .pad) (hcnt : s.padcnt.toNat + 1 = s.padlen) : RowTaken s b { s with padcnt := 0 }

/-- What a byte of the rows does (R163 to R165, R171, R172). -/
inductive State.RowByte (s : State) (b : Byte) : State → Prop where
  | hold (hp : s.phase = .pix) (hkb : s.kb.toNat + 1 < s.bytesPerPixel) : RowByte s b (s.holdByte b)
  | pixel (hp : s.phase = .pix) (hkb : s.kb.toNat + 1 = s.bytesPerPixel) (hcol : s.col.toNat + 1 < s.w) :
      RowByte s b { s.storePixel (s.pixelOf b) with kb := 0, col := s.col + 1 }
  | toPadding (hp : s.phase = .pix) (hkb : s.kb.toNat + 1 = s.bytesPerPixel) (hcol : s.col.toNat + 1 = s.w)
      (hpad : 0 < s.padlen) :
      RowByte s b { s.storePixel (s.pixelOf b) with kb := 0, col := 0, phase := .pad, padcnt := 0 }
  | padding (hp : s.phase = .pad) (hcnt : s.padcnt.toNat + 1 < s.padlen) : RowByte s b { s with padcnt := s.padcnt + 1 }
  | nextRow (u : State) (hu : s.RowTaken b u) (hline : s.line.toNat + 1 < s.h) :
      RowByte s b { u with line := u.line + 1, phase := .pix }
  | commit (u : State) (hu : s.RowTaken b u) (hline : s.line.toNat + 1 = s.h) : RowByte s b u.commit

theorem State.bytesPerPixel_of_bpp_24 {s : State} (h24 : s.bpp = 24) : s.bytesPerPixel = 3 := by
  rw [State.bytesPerPixel, h24]
  rfl

theorem State.bytesPerPixel_of_bpp_32 {s : State} (h32 : s.bpp = 32) : s.bytesPerPixel = 4 := by
  rw [State.bytesPerPixel, h32]
  rfl

/-! ### A pixel byte -/

/-- A byte before the last of its pixel is held (R162 to R164). -/
theorem pixelByte_hold {s : State} (h : s.Sized) (b : Byte) (hkb : s.kb.toNat + 1 < s.bytesPerPixel) :
    pixelByte b s = .ok (s.holdByte b) := by
  rcases h.depth with h24 | h32
  · rw [State.bytesPerPixel_of_bpp_24 h24] at hkb
    rw [pixelByte, if_pos h24]
    rcases pixel24Byte_cases b s with ⟨hk, hx⟩ | ⟨hk, hx⟩ | ⟨hk, -⟩ | ⟨hk, -⟩
    · rw [hx]; simp [State.holdByte, hk]
    · rw [hx]; simp [State.holdByte, hk]
    · exact absurd hkb (by rw [hk]; decide)
    · exact absurd hkb (by rw [hk]; decide)
  · rw [State.bytesPerPixel_of_bpp_32 h32] at hkb
    rw [pixelByte, if_neg (by rw [h32]; decide)]
    rcases pixel32Byte_cases b s with ⟨hk, hx⟩ | ⟨hk, hx⟩ | ⟨hk, hx⟩ | ⟨hk, -⟩
    · rw [hx]; simp [State.holdByte, hk]
    · rw [hx]; simp [State.holdByte, hk]
    · rw [hx]; simp [State.holdByte, hk]
    · exact absurd hkb (by rw [hk]; decide)

/-- PIXDONE in the scanline loop: the store, then what follows it (R165). -/
theorem pixdone_scanning {s : State} (h : s.Scanning) (hcol : s.col.toNat < s.w) (r g bl a : Byte) :
    pixdone r g bl a s = nextColumn (s.storePixel (pixelWord r g bl a)) := by
  rcases pixdone_cases r g bl a s with ⟨-, hd⟩ | ⟨hcap, -⟩
  · exact hd
  · exact absurd (h.pixelAddr_lt hcol) (Nat.not_lt.mpr hcap)

/-- The last byte of a pixel stores it (R163, R164). -/
theorem pixelByte_finish {s : State} (h : s.Scanning) (hcol : s.col.toNat < s.w) (b : Byte)
    (hkb : s.kb.toNat + 1 = s.bytesPerPixel) : pixelByte b s = nextColumn (s.storePixel (s.pixelOf b)) := by
  rcases h.depth with h24 | h32
  · rw [State.bytesPerPixel_of_bpp_24 h24] at hkb
    rw [pixelByte, if_pos h24, State.pixelOf, if_pos h24]
    rcases pixel24Byte_cases b s with ⟨hk, -⟩ | ⟨hk, -⟩ | ⟨hk, hx⟩ | ⟨hk, -⟩
    · exact absurd hkb (by rw [hk]; decide)
    · exact absurd hkb (by rw [hk]; decide)
    · rw [hx, pixdone_scanning h hcol]
    · exact absurd hkb (by rw [hk]; decide)
  · have h24 : s.bpp ≠ 24 := by rw [h32]; decide
    rw [State.bytesPerPixel_of_bpp_32 h32] at hkb
    rw [pixelByte, if_neg h24, State.pixelOf, if_neg h24]
    rcases pixel32Byte_cases b s with ⟨hk, -⟩ | ⟨hk, -⟩ | ⟨hk, -⟩ | ⟨hk, hx⟩
    · exact absurd hkb (by rw [hk]; decide)
    · exact absurd hkb (by rw [hk]; decide)
    · exact absurd hkb (by rw [hk]; decide)
    · rw [hx, pixdone_scanning h hcol]

/-! ### The cases are all of them -/

/-- A row whose last byte is taken has moved only within the row. -/
theorem State.RowTaken.frame {s u : State} {b : Byte} (h : s.RowTaken b u) :
    s.SameSize u ∧ u.line = s.line ∧ u.active = s.active := by
  cases h with
  | pixel => exact ⟨⟨s.setBank_cfg _ _, s.setBank_hdr _ _, s.setBank_npix _ _⟩, s.setBank_line _ _, s.setBank_active _ _⟩
  | padding => exact ⟨⟨rfl, rfl, rfl⟩, rfl, rfl⟩

/-- The end of a row is the next row or the commit (R172). -/
theorem State.RowTaken.rowend {s u : State} {b : Byte} (h : s.Scanning) (hu : s.RowTaken b u) :
    ∃ t, rowend u = .ok t ∧ s.RowByte b t := by
  obtain ⟨e, hline, -⟩ := hu.frame
  rcases Nat.lt_or_ge (s.line.toNat + 1) s.h with hmore | hlast
  · exact ⟨_, rowend_nextRow (by rwa [hline, e.h]), .nextRow u hu hmore⟩
  · exact ⟨_, rowend_commits (e.sized h.toSized) (by rwa [hline, e.h]), .commit u hu (Nat.le_antisymm h.line hlast)⟩

/-- In the scanline loop every byte is accepted and does one of these things. -/
theorem exec_byte_rowByte {s : State} (h : s.Scanning) (b : Byte) : ∃ t, exec (.byte b) s = .next t ∧ s.RowByte b t := by
  rcases h.place with ⟨hp, hcol, hkb⟩ | ⟨hp, hcnt, -⟩
  · rw [exec_byte_pix h hp]
    rcases Nat.lt_or_ge (s.kb.toNat + 1) s.bytesPerPixel with hmore | hlast
    · rw [pixelByte_hold h.toSized b hmore]
      exact ⟨_, rfl, .hold hp hmore⟩
    have hkb := Nat.le_antisymm hkb hlast
    rw [pixelByte_finish h hcol b hkb]
    have e := s.storePixel_sameSize (s.pixelOf b)
    have hcol' : (s.storePixel (s.pixelOf b)).col = s.col := s.setBank_col _ _
    rcases nextColumn_cases (s.storePixel (s.pixelOf b)) with ⟨hmore, hn⟩ | ⟨hend, hpad, hn⟩ | ⟨hend, hpad, hn⟩ <;>
      rw [hn]
    · rw [hcol', e.w] at hmore
      exact ⟨_, congrArg (settle s ∘ Effect.ok) (by rw [hcol']), .pixel hp hkb hmore⟩
    · rw [hcol', e.w] at hend
      rw [e.padlen] at hpad
      exact ⟨_, rfl, .toPadding hp hkb (Nat.le_antisymm hcol hend) hpad⟩
    · rw [hcol', e.w] at hend
      rw [e.padlen] at hpad
      obtain ⟨t, ht, hbyte⟩ := State.RowTaken.rowend h (.pixel (b := b) hp hkb (Nat.le_antisymm hcol hend) hpad)
      exact ⟨t, by rw [ht, settle_ok], hbyte⟩
  · rw [exec_byte_pad hp, exec_padskip_pad hp]
    rcases padByte_cases s with ⟨hmore, hx⟩ | ⟨hlast, hx⟩ <;> rw [hx]
    · exact ⟨_, rfl, .padding hp hmore⟩
    · obtain ⟨t, ht, hbyte⟩ := State.RowTaken.rowend h (.padding (b := b) hp (Nat.le_antisymm hcnt hlast))
      exact ⟨t, by rw [ht, settle_ok], hbyte⟩

/-- A byte of the rows, with the position it moves to. -/
theorem exec_byte_rows {s : State} (h : s.Scanning) (b : Byte) :
    ∃ t, exec (.byte b) s = .next t ∧ s.RowByte b t ∧ s.Advances t := by
  obtain ⟨t, ht, hrow⟩ := exec_byte_rowByte h b
  obtain ⟨t', ht', hadv⟩ := exec_byte_scanning h b
  obtain rfl : t = t' := Host.Outcome.next.inj (ht.symm.trans ht')
  exact ⟨t, ht, hrow, hadv⟩

end Sys2Proof.Machine
end

section
/-! SUPPORT. A byte of the rows keeps the invariant (R165, R172, R174): the pixels stored so far, and after the last
one the committed image; and the statements O40 and O41. -/

namespace Sys2Proof.Machine

/-! ### What a byte of the rows leaves alone -/

theorem State.SameSize.signed {s t : State} (e : s.SameSize t) (h : s.Signed) : t.Signed := by
  rwa [State.Signed, e.hdrAt, e.hdrAt]

theorem State.SameSize.compr {s t : State} (e : s.SameSize t) : t.compr = s.compr := by
  simp only [State.compr, State.le32, e.hdrAt]

/-- The store leaves the committed image (R53). -/
theorem State.storePixel_sameImage (s : State) (p : Pixel) : s.sameImage (s.storePixel p) := by
  simp [State.sameImage, State.storePixel]

theorem State.storePixel_banksWf {s : State} (h : s.banksWf) (ha : s.pixelAddr < s.cfg.cap) (p : Pixel) :
    (s.storePixel p).banksWf :=
  State.setBank_banksWf h _ (Bank.put_wf _ ha p (State.banksWf_work h))

theorem State.RowTaken.hoff_err {s u : State} {b : Byte} (h : s.RowTaken b u) : u.hoff = s.hoff ∧ u.err = s.err := by
  cases h with
  | pixel => exact ⟨s.setBank_hoff _ _, s.setBank_err _ _⟩
  | padding => exact ⟨rfl, rfl⟩

theorem State.RowByte.hoff_err {s t : State} {b : Byte} (h : s.RowByte b t) : t.hoff = s.hoff ∧ t.err = s.err := by
  cases h with
  | hold | padding => exact ⟨rfl, rfl⟩
  | pixel | toPadding => exact ⟨s.setBank_hoff _ _, s.setBank_err _ _⟩
  | nextRow u hu | commit u hu => exact hu.hoff_err

theorem State.RowTaken.sameImage {s u : State} {b : Byte} (h : s.RowTaken b u) : s.sameImage u := by
  cases h with
  | pixel => exact s.storePixel_sameImage _
  | padding => exact ⟨rfl, rfl, rfl, rfl, rfl, rfl⟩

/-- Before the commit a byte of the rows leaves the committed image (R53). -/
theorem State.RowByte.sameImage {s t : State} {b : Byte} (h : s.RowByte b t) (hp : t.phase ≠ .done) : s.sameImage t := by
  cases h with
  | hold | padding => exact ⟨rfl, rfl, rfl, rfl, rfl, rfl⟩
  | pixel | toPadding => exact s.storePixel_sameImage _
  | nextRow u hu => exact hu.sameImage
  | commit => exact absurd rfl hp

section
variable {s u t : State} {b : Byte} (hscan : s.Scanning) (h : s.banksWf)
include hscan h

theorem State.Scanning.storePixel_banksWf (hp : s.phase = .pix) (p : Pixel) : (s.storePixel p).banksWf := by
  rcases hscan.place with ⟨-, hcol, -⟩ | ⟨hpad, -⟩
  · exact State.storePixel_banksWf h (hscan.pixelAddr_lt hcol) p
  · cases hp.symm.trans hpad

theorem State.RowTaken.banksWf (hu : s.RowTaken b u) : u.banksWf := by
  cases hu with
  | pixel hp => exact hscan.storePixel_banksWf h hp _
  | padding => exact h

theorem State.RowByte.banksWf (ht : s.RowByte b t) : t.banksWf := by
  cases ht with
  | hold | padding => exact h
  | pixel hp | toPadding hp => exact hscan.storePixel_banksWf h hp _
  | nextRow u hu | commit u hu =>
    have hu := hu.banksWf hscan h
    exact hu

end

/-! ### The pixels stored so far -/

section
variable {s u : State} {Q : Nat → Pixel → Prop} {b : Byte} (h : s.RowsInv Q)
  (hQ : s.phase = .pix → s.kb.toNat + 1 = s.bytesPerPixel → Q s.pixelAddr (s.pixelOf b))
include h hQ

/-- A store keeps the pixels stored so far and adds the one under way (R165). -/
theorem State.RowsInv.filled_storePixel (hp : s.phase = .pix) (hkb : s.kb.toNat + 1 = s.bytesPerPixel) {a : Nat}
    (ha : a < s.npix) (hfin : a ≠ s.pixelAddr → s.finished a) :
    ∃ p, (s.storePixel (s.pixelOf b)).work.find a = some p ∧ Q a p := by
  rw [State.storePixel, State.setBank_work]
  by_cases hc : a = s.pixelAddr
  · subst hc
    exact ⟨_, Bank.find_put_same _ _ _, hQ hp hkb⟩
  · rw [Bank.find_put_other _ hc]
    exact h.filled a ha (hfin hc)

/-- With its last byte taken the whole row is stored. -/
theorem State.RowTaken.filled (hu : s.RowTaken b u) {a : Nat} (ha : a < s.npix) (hrow : s.rowStart ≤ a) :
    ∃ p, u.work.find a = some p ∧ Q a p := by
  cases hu with
  | pixel hp hkb hcol =>
    refine h.filled_storePixel hQ hp hkb ha fun hne => (State.finished_pix hp a).mpr ?_
    have hne : a ≠ s.rowStart + s.col.toNat := hne
    omega
  | padding hp => exact h.filled a ha ((State.finished_pad hp a).mpr hrow)

end

/-- The next file row is the memory row before (R165). -/
theorem memoryRow_next {w h line : Nat} (hline : line + 1 < h) :
    (h - 1 - (line + 1)) * w + w = (h - 1 - line) * w := by
  rw [← Nat.succ_mul]
  congr 1
  omega

/-- The last file row is the first memory row (R165). -/
theorem State.rowStart_last {s : State} (hline : s.line.toNat + 1 = s.h) : s.rowStart = 0 := by
  rw [State.rowStart, ← hline, Nat.add_sub_cancel, Nat.sub_self, Nat.zero_mul]

theorem State.SameSize.rowStart {s t : State} (e : s.SameSize t) (hline : t.line = s.line) : t.rowStart = s.rowStart := by
  rw [State.rowStart, e.h, e.w, hline, State.rowStart]

theorem State.RowTaken.col_padcnt {s u : State} {Q : Nat → Pixel → Prop} {b : Byte} (h : s.RowsInv Q)
    (hu : s.RowTaken b u) : u.col = 0 ∧ u.padcnt = 0 := by
  cases hu with
  | pixel hp => exact ⟨rfl, (s.setBank_padcnt _ _).trans (h.padcnt hp)⟩
  | padding hp =>
    rcases h.place with ⟨hpix, -⟩ | ⟨-, -, hcol, -⟩
    · cases hp.symm.trans hpix
    · exact ⟨hcol, rfl⟩

/-- Committing a whole stored image leaves it loaded (R174). -/
theorem State.commit_loaded {u : State} {Q : Nat → Pixel → Prop} (hhoff : u.hoff = 53) (herr : u.err = .none)
    (hfill : ∀ a, a < u.npix → ∃ p, u.work.find a = some p ∧ Q a p) : u.commit.Loaded Q :=
  ⟨rfl, hhoff, herr, rfl, ⟨rfl, rfl⟩, rfl, hfill⟩

/-- A byte of the rows keeps the scanline loop's invariant or commits the image. -/
theorem State.RowsInv.rowByte {s t : State} {Q : Nat → Pixel → Prop} {b : Byte} (h : s.RowsInv Q)
    (hQ : s.phase = .pix → s.kb.toNat + 1 = s.bytesPerPixel → Q s.pixelAddr (s.pixelOf b)) (ht : s.RowByte b t)
    (hadv : s.Advances t) : t.RowsInv Q ∨ t.Loaded Q := by
  obtain ⟨hhoff, herr⟩ := ht.hoff_err
  have e := hadv.sameSize
  have hrows {p : Phase} (hp : t.phase = p) (hne : p ≠ .done) (hcnt : p = .pix → t.padcnt = 0)
      (hfill : ∀ a, a < s.npix → t.finished a → ∃ p, t.work.find a = some p ∧ Q a p) : t.RowsInv Q ∨ t.Loaded Q := by
    subst hp
    refine .inl ⟨?_, e.signed h.signed, e.compr.trans h.compr, hhoff.trans h.hoff, herr.trans h.err, hcnt, ?_⟩
    · exact (hadv.moves.resolve_right fun hd => hne hd.1).1
    · rw [e.npix]; exact hfill
  cases ht with
  | hold hp => exact hrows (p := .pix) hp nofun (fun _ => h.padcnt hp) h.filled
  | pixel hp hkb hcol =>
    have hp' : (s.storePixel (s.pixelOf b)).phase = .pix := (s.setBank_phase _ _).trans hp
    refine hrows hp' nofun (fun _ => (s.setBank_padcnt _ _).trans (h.padcnt hp)) fun a ha hfin => ?_
    rw [State.finished_pix (by exact hp'), e.rowStart (s.setBank_line _ _), e.w, State.toNat_col_add_one hcol] at hfin
    refine h.filled_storePixel hQ hp hkb ha fun hne => (State.finished_pix hp a).mpr ?_
    have hne : a ≠ s.rowStart + s.col.toNat := hne
    omega
  | toPadding hp hkb hcol =>
    refine hrows (p := .pad) rfl nofun nofun fun a ha hfin => ?_
    rw [State.finished_pad rfl, e.rowStart (s.setBank_line _ _)] at hfin
    refine h.filled_storePixel hQ hp hkb ha fun hne => (State.finished_pix hp a).mpr ?_
    have hne : a ≠ s.rowStart + s.col.toNat := hne
    omega
  | padding hp => exact hrows (p := .pad) hp nofun nofun h.filled
  | nextRow u hu hline =>
    obtain ⟨hcol, hcnt⟩ := hu.col_padcnt h
    have hline' : (u.line + 1).toNat = s.line.toNat + 1 := by rw [hu.frame.2.1, State.toNat_line_add_one hline]
    refine hrows (p := .pix) rfl nofun (fun _ => hcnt) fun a ha hfin => hu.filled h hQ ha ?_
    rw [State.finished_pix rfl, State.rowStart, e.h, e.w, hline', memoryRow_next hline] at hfin
    simp only [hcol, BitVec.ofNat_eq_ofNat, BitVec.toNat_zero] at hfin
    rw [State.rowStart]
    omega
  | commit u hu hline =>
    refine .inr (State.commit_loaded (hhoff.trans h.hoff) (herr.trans h.err) fun a ha => hu.filled h hQ ?_ ?_)
    · exact Nat.lt_of_lt_of_eq ha e.npix
    · rw [State.rowStart_last hline]
      exact Nat.zero_le a

/-! ### The whole invariant -/

/-- A loaded image that ALLOC sized is as the invariant says (R25, R175). -/
theorem State.Loaded.imageOk {s : State} {Q : Nat → Pixel → Prop} (h : s.Loaded Q) (hs : s.Sized) (hb : s.banksWf) :
    s.ImageOk := by
  obtain ⟨hw, hh⟩ := h.dimensions
  refine ⟨hs.parameters, fun _ => ⟨?_, ?_, ?_⟩, fun hv => ?_, hb, fun _ a ha => ?_⟩
  · rw [h.length, hs.product, hw, hh]; rfl
  · rw [h.length, hs.product]; exact Nat.mul_pos hs.dimensions.1 hs.dimensions.2
  · rw [h.length]; exact hs.fits
  · rw [h.valid] at hv; cases hv
  · obtain ⟨p, hp, -⟩ := h.filled a ha
    rw [hp]; rfl

theorem State.RowByte.imageOk {s t : State} {b : Byte} (hscan : s.Scanning) (himg : s.ImageOk) (ht : s.RowByte b t)
    (hadv : s.Advances t) (hload : t.phase = .done → t.Loaded anyPixel) : t.ImageOk := by
  have hb := ht.banksWf hscan himg.banks
  by_cases hp : t.phase = .done
  · exact (hload hp).imageOk (hadv.sameSize.sized hscan.toSized) hb
  · exact himg.of_sameImage hadv.sameSize.cfg (ht.sameImage hp) hb

/-- A byte of the rows keeps the invariant. -/
theorem State.Inv.rowByte {s t : State} {b : Byte} (h : s.Inv) (hr : s.inRows) (ht : s.RowByte b t)
    (hadv : s.Advances t) : t.Inv := by
  have hrows := h.rowsInv hr
  have hnext := hrows.rowByte (fun _ _ => trivial) ht hadv
  have himg := ht.imageOk hrows.toScanning h.imageOk hadv fun hp => hnext.resolve_left fun hrows' => ?_
  · rcases hnext with hnext | hnext
    · exact himg.inv_rows hnext
    · exact himg.inv_loaded (hadv.sameSize.sized hrows.toSized).fits hnext
  · rcases hrows'.place with ⟨hp', -⟩ | ⟨hp', -⟩ <;> cases hp.symm.trans hp'

/-- In the last row's padding, where the parameter allows it, the end of the stream commits an image that ALLOC sized
(R94). -/
theorem exec_eos_commits {s : State} (hs : s.Sized) (hopt : s.cfg.finalPadOptional = true) (hp : s.phase = .pad)
    (hline : s.line.toNat + 1 = s.h) : exec .eos s = .next (State.commit { s with padcnt := 0 }) := by
  have hsame : s.SameSize { s with padcnt := 0 } := ⟨rfl, rfl, rfl⟩
  rw [exec_eos_finalPad hopt hp hline, finalize_sized (hsame.sized hs)]
  rfl

/-- The image that the end of the stream commits there is whole (R175). -/
theorem State.RowsInv.eos_loaded {s : State} {Q : Nat → Pixel → Prop} (h : s.RowsInv Q) (hp : s.phase = .pad)
    (hline : s.line.toNat + 1 = s.h) : (State.commit { s with padcnt := 0 }).Loaded Q :=
  State.commit_loaded h.hoff h.err fun a ha => h.filled a ha ((State.finished_pad hp a).mpr (by
    rw [State.rowStart_last hline]
    exact Nat.zero_le a))

/-- The end of the stream keeps the invariant, failing or not (R93, R94). -/
theorem exec_eos_inv {s t : State} (h : s.Inv) (ht : exec .eos s = .next t) : t.Inv := by
  have hfail (e : ErrCode) (he : e ≠ .none) : (s.raiseFail e).Inv := State.raiseFail_inv h.imageOk h.sized he
  cases hb : s.busy with
  | false =>
    rw [exec_eos_notBusy hb] at ht
    exact Host.Outcome.next.inj ht ▸ h
  | true =>
    by_cases hopen : s.phase = .fhdr ∧ s.hoff = 0
    · rw [exec_eos_open hopen.1 hopen.2] at ht
      exact Host.Outcome.next.inj ht ▸ hfail _ nofun
    by_cases hpad : s.cfg.finalPadOptional = true ∧ s.phase = .pad ∧ s.line.toNat + 1 = s.h
    · obtain ⟨hopt, hp, hline⟩ := hpad
      have hrows := h.rowsInv (.inr hp)
      have hload := hrows.eos_loaded hp hline
      have hsized : (State.commit { s with padcnt := 0 }).Sized :=
        State.SameSize.sized (s := s) ⟨rfl, rfl, rfl⟩ hrows.toSized
      rw [exec_eos_commits hrows.toSized hopt hp hline] at ht
      exact Host.Outcome.next.inj ht ▸ (hload.imageOk hsized h.imageOk.banks).inv_loaded h.sized hload
    · rw [exec_eos_io hb hopen hpad] at ht
      exact Host.Outcome.next.inj ht ▸ hfail _ nofun

/-- A byte keeps the invariant (R95). -/
theorem exec_byte_inv {s t : State} {b : Byte} (h : s.Inv) (ht : exec (.byte b) s = .next t) : t.Inv := by
  cases hp : s.phase with
  | fhdr => exact exec_byte_header_inv h (.inl hp) ht
  | ihdr => exact exec_byte_header_inv h (.inr hp) ht
  | pix | pad =>
    have hr : s.inRows := by simp [State.inRows, hp]
    obtain ⟨u, hu, hrow, hadv⟩ := exec_byte_rows (h.scanning hr) b
    obtain rfl : u = t := Host.Outcome.next.inj (hu.symm.trans ht)
    exact h.rowByte hr hrow hadv
  | idle | done | failed =>
    rw [exec_byte_notBusy (by rw [State.busy, hp]; rfl)] at ht
    exact Host.Outcome.next.inj ht ▸ h

/-- Settles O40: each event keeps the invariant, and the record of the environment does not matter to it. -/
theorem everyStepKeepsTheInvariant : Obligations.EveryStepKeepsTheInvariant := by
  intro s t h hstep
  obtain ⟨-, ⟨-, rfl⟩ | ⟨x, rest, -, rfl | ⟨e, he, hexec⟩⟩⟩ := step_eq_next hstep
  · exact h
  · exact h.of_sameBlock rfl
  have h' : State.Inv { s with inbox := rest } := h.of_sameBlock rfl
  rcases decodeEvent_cases he with (rfl | ⟨rfl, hb⟩ | ⟨rfl, -⟩ | ⟨b, rfl, -⟩) | ⟨n, rfl⟩ | ⟨a, rfl, -⟩
  · cases hexec
    exact State.toReset_inv h.parameters
  · rw [exec_start_notBusy (by exact hb)] at hexec
    cases hexec
    exact h'.beginLoad
  · exact exec_eos_inv h' hexec
  · exact exec_byte_inv h' hexec
  · exact h'.of_sameBlock (exec_rdreg_sameBlock hexec)
  · exact h'.of_sameBlock (exec_rdpix_sameBlock hexec)

/-- Every reachable state meets the invariant (R30). -/
theorem Reachable.inv {s : State} (h : Reachable s) : s.Inv := by
  induction h with
  | reset cfg hcfg => exact resetMeetsTheInvariant cfg hcfg
  | present s xs _ ih => exact ih.of_sameBlock rfl
  | step s t _ hstep ih => exact everyStepKeepsTheInvariant s t ih hstep

theorem Phase.code_ne_seven (p : Phase) : p.code ≠ 7 := by
  cases p <;> decide

theorem ErrCode.code_ne_zero_iff (e : ErrCode) : e.code ≠ 0 ↔ e ≠ .none := by
  cases e <;> decide

/-- Settles O41: R30 clause by clause from the invariant. -/
theorem reachableStatesAreAsR30Says : Obligations.ReachableStatesAreAsR30Says := by
  intro s hs
  have h := hs.inv
  refine ⟨Phase.code_ne_seven _, h.fileHeader, h.infoHeader, fun hr => ?rows, h.pixel, h.padding,
    (ErrCode.code_ne_zero_iff _).trans h.failure, h.committed, h.done⟩
  obtain ⟨hw, hh, hbpp, hcompr, hn, hline⟩ := h.validated hr
  exact ⟨hw, hh, hbpp, hcompr, s.sig_eq_iff.mpr (h.signature (.inr (.inr hr))), hn, h.sized, hline⟩

end Sys2Proof.Machine
end

section
/-! SUPPORT. The field captures at the positions that select them (R110 to R114, R130 to R140) and anywhere else (log
10), and the statements O16 to O20 about them. -/

namespace Sys2Proof.Machine

/-! ### A selected capture is HCAP -/

/-- An operation that a beat presents, at a position that selects it, does what the byte does (R74, R95). -/
theorem exec_of_selectedAt {s : State} {i : Instr} {b : Byte} (hx : encode i = some (.edge (.beat b)))
    (hsel : i.selectedAt s.selector = true) : exec i s = exec (.byte b) s := by
  rw [← streamOp_of_selectedAt hx hsel, exec_streamOp]

theorem span_le {i : Instr} {lo hi : Nat} (h : i.span = some (lo, hi)) : hi ≤ 53 := by
  cases i <;> simp only [Instr.span, Option.some.injEq, Prod.mk.injEq, reduceCtorEq] at h <;> omega

/-- A field capture is selected in a header phase only, at an offset of the header (R60, R61, R74). -/
theorem header_of_selectedAt {sel : Selector} {i : Instr} (hi : i.format = .fileHeader ∨ i.format = .infoHeader)
    (hsel : i.selectedAt sel = true) : (sel.phase = .fhdr ∨ sel.phase = .ihdr) ∧ sel.hoff.toNat ≤ 53 := by
  have hoff (hspan : i.spans sel.hoff = true) : sel.hoff.toNat ≤ 53 := by
    rw [Instr.spans] at hspan
    split at hspan
    next lo hi hs =>
      have hle := span_le hs
      simp only [Bool.and_eq_true, decide_eq_true_eq] at hspan
      omega
    next => cases hspan
  rcases hi with hf | hf <;> simp only [Instr.selectedAt, hf, Bool.and_eq_true, beq_iff_eq] at hsel
  · exact ⟨.inl hsel.1, hoff hsel.2⟩
  · exact ⟨.inr hsel.1, hoff hsel.2⟩

/-- Settles O16: a selected capture is HCAP, which at such an offset only stores the byte. -/
theorem fieldCaptureStoresByte : Obligations.FieldCaptureStoresByte := by
  intro s b i hi hsel h1 h13 h53
  have hcapture : encode i = some (.edge (.beat b)) ∧ (i.format = .fileHeader ∨ i.format = .infoHeader) := by
    simp only [List.mem_cons, List.not_mem_nil, or_false] at hi
    rcases hi with rfl | rfl | rfl | rfl | rfl | rfl | rfl | rfl | rfl | rfl | rfl | rfl | rfl | rfl | rfl | rfl <;>
      exact ⟨rfl, by simp [Instr.format]⟩
  obtain ⟨hp, hle⟩ := header_of_selectedAt hcapture.2 hsel
  rw [exec_of_selectedAt hcapture.1 hsel, exec_byte_eq_hcap hp]
  exact exec_hcap_plain hp b (State.hoff_toNat_ne h1) (State.hoff_toNat_ne h13)
    (Nat.lt_of_le_of_ne hle (State.hoff_toNat_ne h53))

/-- A field capture of the phase at an offset of the field is HCAP (R96). -/
theorem fieldCapture_eq_hcap {s : State} {phase : Phase} {lo hi : Nat} (hp : s.phase = phase)
    (hphase : phase = .fhdr ∨ phase = .ihdr) (hlo : lo ≤ s.hoff.toNat) (hhi : s.hoff.toNat ≤ hi) (b : Byte) :
    fieldCapture phase lo hi b s = exec (.hcap b) s := by
  rw [fieldCapture_selected hp hlo hhi, exec_hcap_header (hp ▸ hphase)]
  rfl

/-! ### The three offsets where more happens -/

/-- Settles O17: HCAP at the signature's second byte; failure entry is outside BUSY. -/
theorem signatureJudgedAtSecondByte : Obligations.SignatureJudgedAtSecondByte := by
  intro s b hp h1
  have hcap : exec (.fhSig b) s = exec (.hcap b) s :=
    fieldCapture_eq_hcap hp (.inl rfl) (Nat.zero_le _) (by rw [h1]; decide) b
  rw [hcap]
  refine ⟨fun h0 hb => ?good, fun hbad => ?bad⟩
  case good =>
    subst hb
    exact exec_hcap_goodSignature (.inl hp) h1 h0
  case bad =>
    have hoff : s.hoff.toNat = 1 := by rw [h1]; rfl
    have hsame : s.capture b = { s with hdr := s.hdr.setIfInBounds 1 b } := State.capture_eq h1 b
    refine ⟨(s.capture b).raiseFail .signature, ?_, rfl, rfl, ?_, ?_, fun j hj => ?_, ?_⟩
    · rw [exec_hcap_badSignature (.inl hp) b h1 hbad, exec_fail, hsame]
    · rw [State.raiseFail_hoff, State.capture_hoff, h1]
    · rw [State.raiseFail_hdrAt, ← hoff, s.capture_hdrAt_same b (by omega)]
    · rw [State.raiseFail_hdrAt, s.capture_hdrAt_other b (by omega)]
    · exact exec_byte_notBusy (State.raiseFail_busy _ _)

/-- Settles O18: HCAP at the last byte of the file header. -/
theorem offbitsLastByteEntersInfoHeader : Obligations.OffbitsLastByteEntersInfoHeader := by
  intro s b hp h13
  have hcap : exec (.fhOffbits b) s = exec (.hcap b) s :=
    fieldCapture_eq_hcap hp (.inl rfl) (by rw [h13]; decide) (by rw [h13]; decide) b
  rw [hcap, exec_hcap_infoHeader (.inl hp) b h13]

/-- VALIDATE's first test on the dimensions as numbers (R14, R141). -/
theorem validate_eq (s : State) :
    validate s =
      if s.w = 0 ∨ s.h = 0 then .fail .zeroDim
      else if s.bpp ≠ 24 ∧ s.bpp ≠ 32 then .fail .bpp
      else if s.compr ≠ 0 then .fail .compression
      else .ok s := by
  have hzero (x : Word) : x = 0 ↔ x.toNat = 0 := BitVec.toNat_inj.symm
  simp only [validate, Config.biRgb, hzero s.width, hzero s.height]
  rfl

/-- The judgement of a whole header, first match wins (R142, R195). -/
theorem judgement_eq (c : State) :
    settle c ((validate c).bind alloc) =
      if c.w = 0 ∨ c.h = 0 then exec (.fail .zeroDim) c
      else if c.bpp ≠ 24 ∧ c.bpp ≠ 32 then exec (.fail .bpp) c
      else if c.compr ≠ 0 then exec (.fail .compression) c
      else if 2 ^ c.cfg.sz ≤ c.w * c.h then exec (.fail .overflow) c
      else if c.cfg.cap < c.w * c.h then exec (.fail .capacity) c
      else .next { c with npix := c.w * c.h, line := 0, col := 0, kb := 0, padcnt := 0, phase := .pix } := by
  simp only [validate_eq, apply_ite (Effect.bind · alloc), Effect.bind_fail, Effect.bind_ok, alloc_eq,
    apply_ite (settle c), settle_fail, settle_ok, exec_fail]

/-- Settles O19: HCAP at the last byte is the judgement of the header with it captured. -/
theorem lastHeaderByteJudgesInOrder : Obligations.LastHeaderByteJudgesInOrder := by
  intro s c b hp h53 hc
  have hcap : exec (.ihClrimp b) s = exec (.hcap b) s :=
    fieldCapture_eq_hcap hp (.inr rfl) (by rw [h53]; decide) (by rw [h53]; decide) b
  have hc : s.capture b = c := (State.capture_eq h53 b).trans hc.symm
  rw [hcap, exec_hcap_last (.inr hp) b h53, hc]
  exact judgement_eq c

/-! ### Outside the selected positions -/

/-- Settles O20: each operation's own condition is the one that selects it. -/
theorem unselectedStreamOperationDoesNothing : Obligations.UnselectedStreamOperationDoesNothing := by
  refine ⟨fun s i hi hsel => ?unselected, fun s b hp h24 h32 => ⟨?selected, if_neg fun h => h32 h.2⟩⟩
  case selected => simpa [Instr.selectedAt, Instr.format, hp] using h24
  case unselected =>
    cases i with
    | fhSig b | fhFsize b | fhRsv1 b | fhRsv2 b | fhOffbits b | ihSize b | ihWidth b | ihHeight b | ihPlanes b | ihBpp b
    | ihCompr b | ihImgsize b | ihXppm b | ihYppm b | ihClrused b | ihClrimp b | pix24 b | pix32 b | padskip b =>
      exact if_neg fun h => by simp [Instr.selectedAt, Instr.format, Instr.spans, Instr.span, h] at hsel
    | reset | start | eos | byte b | rdreg n | rdpix a | hcap b | sigchk b | validate | alloc | rowchk | pixdone r g bl a
    | rowend | finalize | fail e => simp [Instr.format] at hi

end Sys2Proof.Machine
end

section
/-! SUPPORT. RESET (R29, R90), the parts SIGCHK, ROWCHK and FINALIZE (R116, R161, R174), the bytes of a pixel (R163,
R164) and the read ports (R43), and the statements O8, O9, O21, O25, O28, O30 to O32, O37 and O38 about them. -/

namespace Sys2Proof.Machine

/-! ### RESET -/

/-- Settles O8: RESET is `State.toReset`, whose banks list no word. -/
theorem resetGivesEveryRegisterItsResetValue : Obligations.ResetGivesEveryRegisterItsResetValue := fun s =>
  ⟨s.toReset, rfl, rfl, rfl, rfl, rfl, rfl, rfl, s.toReset_hdrAt, rfl, rfl, rfl, rfl, rfl, rfl, rfl, rfl, rfl, rfl,
    fun _ => ⟨Bank.find_unspecified _ _, Bank.find_unspecified _ _⟩, rfl, rfl, rfl, fun _ => ⟨rfl, rfl⟩, rfl, rfl, rfl⟩

/-- Settles O9: the reset state at the reference parameters. -/
theorem machineStartsAtResetState : Obligations.MachineStartsAtResetState :=
  ⟨rfl, rfl, rfl, rfl, rfl, rfl, rfl, State.resetFor_hdrAt Config.reference, rfl, rfl, rfl, rfl, rfl, rfl, rfl, rfl, rfl,
    rfl, fun _ => ⟨rfl, rfl⟩⟩

/-! ### SIGCHK, ROWCHK and FINALIZE -/

/-- SIGCHK as a step of its own (log 11). -/
theorem exec_sigchk (b : Byte) (s : State) : exec (.sigchk b) s = settle s (sigchk b s) := rfl

/-- Settles O21: the two outcomes of SIGCHK, and the bytes of the signature view. -/
theorem sigchkComparesBothBytes : Obligations.SigchkComparesBothBytes := by
  intro s b
  rw [exec_sigchk]
  refine ⟨fun h0 hb => ?pass, fun hbad => ?fail, s.sig_eq_iff⟩
  case pass => rw [sigchk, if_pos ⟨h0, hb⟩, settle_ok]
  case fail => rw [sigchk, if_neg fun ⟨h0, hb⟩ => hbad.elim (absurd h0) (absurd hb), settle_fail, exec_fail]

/-- ROWCHK as a step of its own (log 11). -/
theorem exec_rowchk (s : State) : exec .rowchk s = settle s (rowchk s) := rfl

/-- The row guard passes every row of the image (R161). -/
theorem rowchk_scanning {s : State} (h : s.Scanning) : rowchk s = .ok s := by
  have hB := h.bytesPerPixel
  have hrow := h.memoryRow_le
  rw [rowchk, if_neg (by omega)]

/-- Settles O25: ROWCHK's own test, and the bounds of the scanline loop. -/
theorem rowGuardNeverFires : Obligations.RowGuardNeverFires := by
  intro s
  rw [exec_rowchk]
  refine ⟨?test, fun hinv hr => ?passes⟩
  case test => simp only [rowchk, apply_ite (settle s), settle_fail, settle_ok, exec_fail, gt_iff_lt]
  case passes => rw [rowchk_scanning (hinv.scanning hr), settle_ok]

/-- Settles O28: FINALIZE by its three conditions, which an image that ALLOC sized meets. -/
theorem finalizeCommitsTheImage : Obligations.FinalizeCommitsTheImage := by
  intro s
  rw [exec_finalize, finalize_eq]
  refine ⟨fun hpos hfit hle => ?commits, fun hbad => ?fails, fun hinv hr => ?sized⟩
  case commits => rw [if_pos ⟨hpos, hfit, hle⟩, settle_ok]
  case fails => rw [if_neg hbad, settle_fail, exec_fail]
  case sized =>
    have h := (hinv.scanning hr).toSized
    rw [← h.product]
    refine ⟨?_, lt_two_pow_of_le_cap h.parameters h.fits, Nat.le_refl _⟩
    rw [h.product]
    exact Nat.mul_pos h.dimensions.1 h.dimensions.2

/-! ### Pixel indices and pixel bytes -/

/-- PIXDONE as a step of its own (log 11). -/
theorem exec_pixdone (r g bl a : Byte) (s : State) : exec (.pixdone r g bl a) s = settle s (pixdone r g bl a s) := rfl

/-- Settles O30: the fault of a write and of a read beyond the store, and the bounds of the invariant. -/
theorem pixelIndexBeyondStoreFaults : Obligations.PixelIndexBeyondStoreFaults := by
  intro s r g bl a n
  refine ⟨fun hcap => ?write, fun hv hn hcap => ?read, fun hinv hp => ?writeBound, fun hinv _ hn =>
    Nat.lt_of_lt_of_le hn hinv.imgLen_le_cap⟩
  case write =>
    rcases pixdone_cases r g bl a s with ⟨hlt, -⟩ | ⟨-, hd⟩
    · exact absurd hlt (Nat.not_lt.mpr hcap)
    · rw [exec_pixdone, hd, settle_fault]
      rfl
  case read => exact if_pos ⟨(s.rdOk_eq_true_iff n).mpr ⟨hv, hn⟩, hcap⟩
  case writeBound => exact (hinv.scanning (.inl hp)).pixelAddr_lt (hinv.pixel hp).1

/-- PIX24 in the scanline loop, once the row guard has passed (R163). -/
theorem exec_pix24_scanning {s : State} (h : s.Scanning) (hp : s.phase = .pix) (h24 : s.bpp = 24) (b : Byte) :
    exec (.pix24 b) s = settle s (pixel24Byte b s) := by
  have hbyte := exec_byte_of_pix hp b
  rw [if_pos h24, exec_byte_pix h hp, pixelByte, if_pos h24] at hbyte
  exact hbyte.symm

/-- PIX32 in the scanline loop, once the row guard has passed (R164). -/
theorem exec_pix32_scanning {s : State} (h : s.Scanning) (hp : s.phase = .pix) (h32 : s.bpp = 32) (b : Byte) :
    exec (.pix32 b) s = settle s (pixel32Byte b s) := by
  have h24 : s.bpp ≠ 24 := by rw [h32]; decide
  have hbyte := exec_byte_of_pix hp b
  rw [if_neg h24, exec_byte_pix h hp, pixelByte, if_neg h24] at hbyte
  exact hbyte.symm

/-- The word that PIXDONE stores (R165). -/
theorem exec_pixdone_word {s : State} (hinv : s.Inv) (hp : s.phase = .pix) (r g bl a : Byte) :
    ∃ t, exec (.pixdone r g bl a) s = .next t ∧
      (t.bank (!s.active)).find ((s.h - 1 - s.line.toNat) * s.w + s.col.toNat) = some (a ++ bl ++ g ++ r) := by
  obtain ⟨t, ht, -, hword, -⟩ := pixdoneStoresOneWordAndAdvances s r g bl a hinv hp
  exact ⟨t, ht, hword⟩

/-- Settles O31: the branches of PIX24's byte; KB stays below the three bytes of a pixel. -/
theorem pix24TakesBytesByRole : Obligations.Pix24TakesBytesByRole := by
  intro s b hinv hp h24
  rw [exec_pix24_scanning (hinv.scanning (.inl hp)) hp h24]
  refine ⟨fun hk => ?blue, fun hk => ?green, fun hk => ?red, fun hk => ?last⟩
  case blue => rw [pixel24Byte, hk]; rfl
  case green => rw [pixel24Byte, hk]; rfl
  case red =>
    have hdone : settle s (pixel24Byte b s) = exec (.pixdone b s.pxg s.pxb 0x00) s := by rw [pixel24Byte, hk]; rfl
    rw [hdone]
    exact ⟨rfl, exec_pixdone_word hinv hp b s.pxg s.pxb 0x00⟩
  case last =>
    obtain ⟨-, hkb, -⟩ := hinv.pixel hp
    rw [hk, State.bytesPerPixel_of_bpp_24 h24] at hkb
    exact absurd hkb (by decide)

/-- Settles O32: the branches of PIX32's byte. -/
theorem pix32TakesBytesByRole : Obligations.Pix32TakesBytesByRole := by
  intro s b hinv hp h32
  rw [exec_pix32_scanning (hinv.scanning (.inl hp)) hp h32]
  refine ⟨fun hk => ?blue, fun hk => ?green, fun hk => ?red, fun hk => ?alpha⟩
  case blue => rw [pixel32Byte, hk]; rfl
  case green => rw [pixel32Byte, hk]; rfl
  case red => rw [pixel32Byte, hk]; rfl
  case alpha =>
    have hdone : settle s (pixel32Byte b s) = exec (.pixdone s.pxr s.pxg s.pxb b) s := by rw [pixel32Byte, hk]; rfl
    rw [hdone]
    exact ⟨rfl, exec_pixdone_word hinv hp s.pxr s.pxg s.pxb b⟩

/-! ### The read ports -/

/-- Settles O37: a readable word of the committed image is specified, and is what the port shows. -/
theorem readablePixelsAreSpecified : Obligations.ReadablePixelsAreSpecified := by
  intro s a hinv hok
  obtain ⟨hv, ha⟩ := (s.rdOk_eq_true_iff a).mp hok
  obtain ⟨p, hp⟩ := Option.isSome_iff_exists.mp (hinv.committedSpecified hv a ha)
  exact ⟨p, hp, (State.rdData_of_rdOk hok).trans (Bank.read_of_find hp)⟩

/-- A read of a pixel records what the ports show (R176, log 9). -/
theorem exec_rdpix_port {s t : State} {a : Nat} (h : exec (.rdpix a) s = .next t) :
    t.port.rdOk = s.rdOk a ∧ t.port.rdData = s.rdData a := by
  change execRdpix a s = .next t at h
  rw [execRdpix] at h
  by_cases hbeyond : s.rdOk a = true ∧ s.cfg.cap ≤ a
  · rw [if_pos hbeyond] at h; cases h
  · rw [if_neg hbeyond] at h; cases h; exact ⟨rfl, rfl⟩

/-- Settles O38: the ports are views, and a read event records them and leaves the block alone. -/
theorem outputPortsShowTheState : Obligations.OutputPortsShowTheState := by
  intro s t a n
  refine ⟨rfl, rfl, rfl, rfl, rfl, rfl, rfl, rfl, fun h => ?pixel, fun h => ?register⟩
  case pixel =>
    obtain ⟨hok, hdata⟩ := exec_rdpix_port h
    exact ⟨hok, hdata, exec_rdpix_sameBlock h⟩
  case register =>
    have hport : t.port.regRdata = s.readReg n := by cases h; rfl
    exact ⟨hport, exec_rdreg_sameBlock h⟩

end Sys2Proof.Machine
end

section
/-! SUPPORT. Which operations always complete: a step of the block answers a next state unless a pixel index is no
word of the store (log 8); and the statement O14 about it. -/

namespace Sys2Proof.Machine

/-- A step whose writes do not fault completes. -/
theorem settle_completes {base : State} {e : Effect} (h : ∀ r, e ≠ .fault r) : ∃ t, settle base e = .next t := by
  cases e with
  | ok t => exact ⟨t, rfl⟩
  | fail c => exact ⟨_, rfl⟩
  | fault r => exact absurd rfl (h r)

/-- No check of the header faults (R96). -/
theorem afterCapture_ne_fault (b : Byte) (s : State) (r : Fault) : afterCapture b s ≠ .fault r := by
  rcases afterCapture_cases b s with ⟨-, -, -, hc⟩ | ⟨-, hc⟩ | ⟨-, hc⟩ | ⟨-, hc⟩ | ⟨-, -, -, hc⟩ | ⟨-, hc⟩ <;> rw [hc]
  case inr.inr.inr.inl =>
    rcases validate_cases s with ⟨-, -, -, -, hv⟩ | ⟨e, -, hv⟩ <;> rw [hv]
    · rcases alloc_cases s with ⟨n, -, -, ha⟩ | ⟨e, -, ha⟩ <;> rw [Effect.bind_ok, ha] <;> exact nofun
    · exact nofun
  all_goals exact nofun

theorem finalize_ne_fault (s : State) (r : Fault) : finalize s ≠ .fault r := by
  rcases finalize_cases s with ⟨-, hf⟩ | hf <;> rw [hf] <;> exact nofun

theorem fieldCapture_completes (phase : Phase) (lo hi : Nat) (b : Byte) (s : State) :
    ∃ t, fieldCapture phase lo hi b s = .next t := by
  rw [fieldCapture]
  split
  · exact settle_completes (afterCapture_ne_fault b _)
  · exact ⟨s, rfl⟩

theorem exec_eos_completes (s : State) : ∃ t, exec .eos s = .next t := by
  show ∃ t, execEos s = .next t
  rw [execEos]
  split
  · split
    · exact ⟨_, rfl⟩
    · split
      · exact settle_completes (finalize_ne_fault _)
      · exact ⟨_, rfl⟩
  · exact ⟨s, rfl⟩

/-- In a state that meets the invariant every byte completes (R95). -/
theorem State.Inv.exec_byte_completes {s : State} (h : s.Inv) (b : Byte) : ∃ t, exec (.byte b) s = .next t := by
  cases hp : s.phase with
  | fhdr | ihdr =>
    rw [exec_byte_header (by simp [hp])]
    exact settle_completes (afterCapture_ne_fault b _)
  | pix | pad =>
    obtain ⟨t, ht, -⟩ := exec_byte_rows (h.scanning (by simp [State.inRows, hp])) b
    exact ⟨t, ht⟩
  | idle | done | failed => exact ⟨s, exec_byte_notBusy (by rw [State.busy, hp]; rfl) b⟩

/-- Settles O14: the stream operations complete because the byte they are selected for does, RDPIX because the image
is in the store. -/
theorem everyPresentableOperationCompletes : Obligations.EveryPresentableOperationCompletes := by
  intro s i hinv hwf hi
  have hbyte {i : Instr} {b : Byte} (hx : encode i = some (.edge (.beat b)))
      (hrest : i.selectedAt s.selector = false → exec i s = .next s) : ∃ t, exec i s = .next t := by
    cases hsel : i.selectedAt s.selector with
    | true => rw [exec_of_selectedAt hx hsel]; exact hinv.exec_byte_completes b
    | false => exact ⟨s, hrest hsel⟩
  obtain ⟨hunselected, -⟩ := unselectedStreamOperationDoesNothing
  cases i with
  | reset => exact ⟨_, rfl⟩
  | start =>
    show ∃ t, execStart s = .next t
    rw [execStart]
    split <;> exact ⟨_, rfl⟩
  | eos => exact exec_eos_completes s
  | byte b => exact hinv.exec_byte_completes b
  | rdreg n => exact ⟨_, rfl⟩
  | rdpix a =>
    cases hok : s.rdOk a with
    | true =>
      have ha := ((s.rdOk_eq_true_iff a).mp hok).2
      exact ⟨_, exec_rdpix_inBounds hok (Nat.lt_of_lt_of_le ha hinv.imgLen_le_cap)⟩
    | false => exact ⟨_, exec_rdpix_outOfBounds hok⟩
  | fhSig b | fhFsize b | fhRsv1 b | fhRsv2 b | fhOffbits b | ihSize b | ihWidth b | ihHeight b | ihPlanes b | ihBpp b
  | ihCompr b | ihImgsize b | ihXppm b | ihYppm b | ihClrused b | ihClrimp b => exact fieldCapture_completes _ _ _ b s
  | pix24 b | pix32 b | padskip b => exact hbyte rfl (hunselected s _ (by simp [Instr.format]))
  | hcap b | sigchk b | validate | alloc | rowchk | pixdone r g bl a | rowend | finalize | fail e =>
    exact absurd rfl hi

end Sys2Proof.Machine
end

section
/-! SUPPORT. What no operation but RESET writes: the parameters (R3 to R6), and, but for the commit, the committed
image (R25, R53, R193); and the statements O43, O44 and O56. -/

namespace Sys2Proof.Machine

/-! ### The committed image as a relation -/

theorem State.sameImage_refl (s : State) : s.sameImage s := ⟨rfl, rfl, rfl, rfl, rfl, rfl⟩

theorem State.sameImage_trans {s t u : State} (h : s.sameImage t) (h' : t.sameImage u) : s.sameImage u := by
  obtain ⟨hv, hw, hh, hl, ha, hb⟩ := h
  obtain ⟨hv', hw', hh', hl', ha', hb'⟩ := h'
  exact ⟨hv.trans hv', hw.trans hw', hh.trans hh', hl.trans hl', ha.trans ha', hb.trans hb'⟩

/-- The pixel reads depend on the committed image alone (R176). -/
theorem State.reads_of_sameImage {s t : State} (h : s.sameImage t) (a : Nat) :
    t.rdOk a = s.rdOk a ∧ t.rdData a = s.rdData a := by
  obtain ⟨hv, -, -, hl, -, hb⟩ := h
  have hok : t.rdOk a = s.rdOk a := by rw [State.rdOk, State.rdOk, hv, hl]
  exact ⟨hok, by rw [State.rdData, State.rdData, hok, hb]⟩

/-! ### What each part of a step keeps -/

/-- The parameters are kept, and so is the committed image unless the step commits a new one. -/
structure State.Keeps (s t : State) : Prop where
  cfg : t.cfg = s.cfg
  image : s.sameImage t ∨ t.phase = .done

theorem State.Keeps.refl (s : State) : s.Keeps s := ⟨rfl, .inl s.sameImage_refl⟩

/-- The writes of a part of a step keep what `State.Keeps` says. -/
def Effect.Keeps (s : State) : Effect → Prop
  | .ok t => s.Keeps t
  | .fail _ => True
  | .fault _ => True

/-- Writes before the part that leave the image do not matter. -/
theorem Effect.Keeps.after {s u : State} {e : Effect} (h : e.Keeps u) (hcfg : u.cfg = s.cfg) (hu : s.sameImage u) :
    e.Keeps s := by
  cases e with
  | ok t => exact ⟨h.cfg.trans hcfg, h.image.imp_left (State.sameImage_trans hu)⟩
  | fail c => trivial
  | fault r => trivial

theorem settle_keeps {s base t : State} {e : Effect} (h : e.Keeps s) (hcfg : base.cfg = s.cfg) (hbase : s.sameImage base)
    (ht : settle base e = .next t) : s.Keeps t := by
  rcases settle_eq_next ht with rfl | ⟨c, rfl, rfl⟩
  · exact h
  · exact ⟨(base.raiseFail_cfg c).trans hcfg, .inl (State.sameImage_trans hbase (base.raiseFail_sameImage c))⟩

theorem sigchk_keeps (b : Byte) (s : State) : (sigchk b s).Keeps s := by
  rcases sigchk_cases b s with ⟨-, -, h⟩ | ⟨-, h⟩ <;> rw [h]
  · exact .refl s
  · trivial

theorem validate_keeps (s : State) : (validate s).Keeps s := by
  rcases validate_cases s with ⟨-, -, -, -, h⟩ | ⟨e, -, h⟩ <;> rw [h]
  · exact .refl s
  · trivial

theorem alloc_keeps (s : State) : (alloc s).Keeps s := by
  rcases alloc_cases s with ⟨n, -, -, h⟩ | ⟨e, -, h⟩ <;> rw [h]
  · exact ⟨rfl, .inl s.sameImage_refl⟩
  · trivial

theorem afterCapture_keeps (b : Byte) (s : State) : (afterCapture b s).Keeps s := by
  rcases afterCapture_cases b s with ⟨-, -, -, h⟩ | ⟨-, h⟩ | ⟨-, h⟩ | ⟨-, h⟩ | ⟨-, -, -, h⟩ | ⟨-, h⟩ <;> rw [h]
  · exact ⟨rfl, .inl s.sameImage_refl⟩
  · trivial
  · exact ⟨rfl, .inl s.sameImage_refl⟩
  · rcases validate_cases s with ⟨-, -, -, -, hv⟩ | ⟨e, -, hv⟩ <;> rw [hv]
    · exact alloc_keeps s
    · trivial
  · exact ⟨rfl, .inl s.sameImage_refl⟩
  · exact .refl s

theorem rowchk_keeps (s : State) : (rowchk s).Keeps s := by
  rcases rowchk_cases s with h | h <;> rw [h]
  · exact .refl s
  · trivial

theorem finalize_keeps (s : State) : (finalize s).Keeps s := by
  rcases finalize_cases s with ⟨-, h⟩ | h <;> rw [h]
  · exact ⟨rfl, .inr rfl⟩
  · trivial

theorem rowend_keeps (s : State) : (rowend s).Keeps s := by
  rcases rowend_cases s with ⟨-, h⟩ | ⟨-, h⟩ <;> rw [h]
  · exact ⟨rfl, .inl s.sameImage_refl⟩
  · exact finalize_keeps s

theorem nextColumn_keeps (s : State) : (nextColumn s).Keeps s := by
  rcases nextColumn_cases s with ⟨-, h⟩ | ⟨-, -, h⟩ | ⟨-, -, h⟩ <;> rw [h]
  · exact ⟨rfl, .inl s.sameImage_refl⟩
  · exact ⟨rfl, .inl s.sameImage_refl⟩
  · exact (rowend_keeps _).after rfl s.sameImage_refl

theorem padByte_keeps (s : State) : (padByte s).Keeps s := by
  rcases padByte_cases s with ⟨-, h⟩ | ⟨-, h⟩ <;> rw [h]
  · exact ⟨rfl, .inl s.sameImage_refl⟩
  · exact (rowend_keeps _).after rfl s.sameImage_refl

theorem pixdone_keeps (r g bl a : Byte) (s : State) : (pixdone r g bl a s).Keeps s := by
  rcases pixdone_cases r g bl a s with ⟨-, h⟩ | ⟨-, h⟩ <;> rw [h]
  · exact (nextColumn_keeps _).after (s.setBank_cfg _ _) (s.storePixel_sameImage _)
  · trivial

theorem pixel24Byte_keeps (b : Byte) (s : State) : (pixel24Byte b s).Keeps s := by
  rcases pixel24Byte_cases b s with ⟨-, h⟩ | ⟨-, h⟩ | ⟨-, h⟩ | ⟨-, h⟩ <;> rw [h]
  · exact ⟨rfl, .inl s.sameImage_refl⟩
  · exact ⟨rfl, .inl s.sameImage_refl⟩
  · exact pixdone_keeps _ _ _ _ s
  · exact .refl s

theorem pixel32Byte_keeps (b : Byte) (s : State) : (pixel32Byte b s).Keeps s := by
  rcases pixel32Byte_cases b s with ⟨-, h⟩ | ⟨-, h⟩ | ⟨-, h⟩ | ⟨-, h⟩ <;> rw [h]
  · exact ⟨rfl, .inl s.sameImage_refl⟩
  · exact ⟨rfl, .inl s.sameImage_refl⟩
  · exact ⟨rfl, .inl s.sameImage_refl⟩
  · exact pixdone_keeps _ _ _ _ s

/-- The row guard writes nothing, so what follows it decides (R161). -/
theorem rowchkAtStart_bind_keeps {s : State} {f : State → Effect} (h : (f s).Keeps s) :
    ((rowchkAtStart s).bind f).Keeps s := by
  rcases rowchkAtStart_cases s with hr | hr <;> rw [hr]
  · exact h
  · trivial

/-! ### What each operation keeps -/

section
variable {s t : State}

/-- A step of the parts above from its own state. -/
theorem settle_self_keeps {e : Effect} (h : e.Keeps s) (ht : settle s e = .next t) : s.Keeps t :=
  settle_keeps h rfl s.sameImage_refl ht

/-- An operation that does its step under a condition, and nothing otherwise. -/
theorem ite_next_keeps {c : Prop} [Decidable c] {o : Host.Outcome State Fault Refusal} (ho : o = .next t → s.Keeps t)
    (ht : (if c then o else .next s) = .next t) : s.Keeps t := by
  split at ht
  · exact ho ht
  · cases ht
    exact .refl s

theorem headerByte_keeps {b : Byte} : headerByte b s = .next t → s.Keeps t :=
  settle_keeps ((afterCapture_keeps b _).after rfl s.sameImage_refl) rfl s.sameImage_refl

theorem execPix24_keeps {b : Byte} : execPix24 b s = .next t → s.Keeps t :=
  ite_next_keeps (settle_self_keeps (rowchkAtStart_bind_keeps (pixel24Byte_keeps b s)))

theorem execPix32_keeps {b : Byte} : execPix32 b s = .next t → s.Keeps t :=
  ite_next_keeps (settle_self_keeps (rowchkAtStart_bind_keeps (pixel32Byte_keeps b s)))

theorem execPadskip_keeps {b : Byte} : execPadskip b s = .next t → s.Keeps t :=
  ite_next_keeps (settle_self_keeps (padByte_keeps s))

theorem execByte_keeps {b : Byte} (ht : execByte b s = .next t) : s.Keeps t := by
  rw [execByte] at ht
  split at ht
  · exact headerByte_keeps ht
  · exact headerByte_keeps ht
  · split at ht
    · exact execPix24_keeps ht
    · exact execPix32_keeps ht
  · exact execPadskip_keeps (b := b) ht
  all_goals cases ht; exact .refl s

theorem raiseFail_keeps (e : ErrCode) : s.Keeps (s.raiseFail e) := ⟨s.raiseFail_cfg e, .inl (s.raiseFail_sameImage e)⟩

theorem execEos_keeps (ht : execEos s = .next t) : s.Keeps t := by
  refine ite_next_keeps (fun ht => ?_) ht
  split at ht
  · cases ht; exact raiseFail_keeps _
  · split at ht
    · have hfinal : (finalize { s with padcnt := 0 }).Keeps s := (finalize_keeps _).after rfl s.sameImage_refl
      exact settle_self_keeps hfinal ht
    · cases ht; exact raiseFail_keeps _

/-- A state with the same block has the same parameters and image. -/
theorem State.sameBlock_keeps (h : s.sameBlock t) : s.Keeps t := by
  rw [← h]
  exact ⟨rfl, .inl s.sameImage_refl⟩

/-- Every operation but RESET keeps the parameters and, unless it commits, the image. -/
theorem exec_keeps {i : Instr} (hi : i ≠ .reset) (ht : exec i s = .next t) : s.Keeps t := by
  cases i with
  | reset => exact absurd rfl hi
  | start =>
    change execStart s = .next t at ht
    rw [execStart] at ht
    split at ht <;> cases ht <;> exact ⟨rfl, .inl s.sameImage_refl⟩
  | eos => exact execEos_keeps ht
  | byte b => exact execByte_keeps ht
  | rdreg n => exact State.sameBlock_keeps (exec_rdreg_sameBlock ht)
  | rdpix a => exact State.sameBlock_keeps (exec_rdpix_sameBlock ht)
  | fhSig b | fhFsize b | fhRsv1 b | fhRsv2 b | fhOffbits b | ihSize b | ihWidth b | ihHeight b | ihPlanes b | ihBpp b
  | ihCompr b | ihImgsize b | ihXppm b | ihYppm b | ihClrused b | ihClrimp b => exact ite_next_keeps headerByte_keeps ht
  | pix24 b => exact execPix24_keeps ht
  | pix32 b => exact execPix32_keeps ht
  | padskip b => exact execPadskip_keeps (b := b) ht
  | hcap b => exact ite_next_keeps headerByte_keeps ht
  | sigchk b => exact settle_self_keeps (sigchk_keeps b s) ht
  | validate => exact settle_self_keeps (validate_keeps s) ht
  | alloc => exact settle_self_keeps (alloc_keeps s) ht
  | rowchk => exact settle_self_keeps (rowchk_keeps s) ht
  | pixdone r g bl a => exact settle_self_keeps (pixdone_keeps r g bl a s) ht
  | rowend => exact settle_self_keeps (rowend_keeps s) ht
  | finalize => exact settle_self_keeps (finalize_keeps s) ht
  | fail e => cases ht; exact raiseFail_keeps e

end

/-- Settles O44: RESET keeps the parameters by its definition, every other operation by `exec_keeps`. -/
theorem parametersNeverChange : Obligations.ParametersNeverChange := by
  intro i s t ht
  by_cases hi : i = .reset
  · subst hi
    cases ht
    rfl
  · exact (exec_keeps hi ht).cfg

/-- Settles O43: only a step in BUSY can commit, and that one enters DONE. -/
theorem committedImageChangesOnlyByCommitOrReset : Obligations.CommittedImageChangesOnlyByCommitOrReset := by
  intro s t x rest hin hstep hreset hcommit
  suffices himg : s.sameImage t from ⟨himg, State.reads_of_sameImage himg⟩
  rcases step_cons hin hstep with rfl | ⟨i, hi, hexec⟩
  · exact s.sameImage_refl
  cases hb : s.busy with
  | true =>
    have hne : i ≠ .reset := fun h => hreset (h ▸ hi)
    exact (exec_keeps hne hexec).image.resolve_right fun hd => hcommit ⟨hb, hd⟩
  | false =>
    rcases decode_notBusy (sel := s.selector) hb hi with rfl | rfl | ⟨n, rfl⟩ | ⟨a, rfl⟩
    · exact absurd hi hreset
    · rw [exec_start_notBusy (by exact hb)] at hexec
      cases hexec
      exact s.sameImage_refl
    · cases hexec
      exact s.sameImage_refl
    · rw [← exec_rdpix_sameBlock hexec]
      exact s.sameImage_refl

/-- A run answers a next state by way of one. -/
theorem andThen_eq_next {o : Host.Outcome State Fault Refusal} {k : State → Host.Outcome State Fault Refusal} {t : State}
    (h : andThen o k = .next t) : ∃ u, o = .next u ∧ k u = .next t := by
  cases o with
  | next u => exact ⟨u, rfl, h⟩
  | fault r => cases h
  | refused r => cases h

/-- A stream that ends in FAILED leaves the committed image: a commit ends in DONE for good (R97, R193). -/
theorem deliver_failed_sameImage {f : List Byte} {s t : State} (h : deliver f s = .next t) (ht : t.phase = .failed) :
    s.sameImage t := by
  induction f generalizing s with
  | nil =>
    rw [deliver] at h
    split at h
    · exact (exec_keeps (i := .eos) nofun h).image.resolve_right (by rw [ht]; exact nofun)
    · cases h; exact State.sameImage_refl _
  | cons b rest ih =>
    rw [deliver] at h
    split at h
    · obtain ⟨u, hu, hrest⟩ := andThen_eq_next h
      rcases (exec_keeps (i := .byte b) nofun hu).image with himg | hdone
      · exact State.sameImage_trans himg (ih hrest)
      · rw [deliver_notBusy (by rw [State.busy, hdone]; rfl)] at hrest
        cases hrest
        cases ht.symm.trans hdone
    · cases h; exact State.sameImage_refl _

/-- Settles O56: START keeps the image, and so does the stream. -/
theorem failedLoadLeavesTheImage : Obligations.FailedLoadLeavesTheImage := by
  intro s t f h ht
  obtain ⟨u, hu, hrest⟩ := andThen_eq_next h
  have hstart : s.sameImage u := by
    cases hb : s.busy with
    | true => cases (startWhileBusyIsIgnored s hb).symm.trans hu; exact s.sameImage_refl
    | false => cases (exec_start_notBusy hb).symm.trans hu; exact s.sameImage_refl
  have himg := State.sameImage_trans hstart (deliver_failed_sameImage hrest ht)
  exact ⟨himg, State.reads_of_sameImage himg⟩

end Sys2Proof.Machine
end

section
/-! SUPPORT. Changes of the capture array and the inbox that no operation sees: the steps commute with them (log 1,
R62); and the statements O45, O47 and O48. -/

namespace Sys2Proof.Machine

/-- The state with its capture array and its inbox changed. -/
def State.patch (f : Vector Byte 54 → Vector Byte 54) (k : List Input → List Input) (s : State) : State :=
  { s with hdr := f s.hdr, inbox := k s.inbox }

/-- The change of the capture array leaves every byte that a rule reads (R13, R62). -/
def Hidden (f : Vector Byte 54 → Vector Byte 54) : Prop :=
  ∀ v j, uncheckedOffset j = false → (f v)[j]? = v[j]?

theorem hidden_id : Hidden id := fun _ _ _ => rfl

/-- Replacing the byte of an unchecked field is such a change. -/
theorem hidden_set {j : Nat} (hj : uncheckedOffset j = true) (v : Byte) : Hidden fun hdr => hdr.setIfInBounds j v := by
  intro hdr i hi
  have hne : j ≠ i := by
    rintro rfl
    rw [hj] at hi
    cases hi
  simp [hne]

/-- The writes of a part of a step, changed. -/
def Effect.map (g : State → State) : Effect → Effect
  | .ok s => .ok (g s)
  | .fail e => .fail e
  | .fault r => .fault r

theorem Effect.map_bind {g : State → State} {part : State → Effect} (h : ∀ s, part (g s) = (part s).map g) (e : Effect) :
    (e.map g).bind part = (e.bind part).map g := by
  cases e with
  | ok s => exact h s
  | fail c => rfl
  | fault r => rfl

section
variable {f : Vector Byte 54 → Vector Byte 54} {k : List Input → List Input}

@[simp] theorem State.patch_cfg (s : State) : (s.patch f k).cfg = s.cfg := rfl
@[simp] theorem State.patch_phase (s : State) : (s.patch f k).phase = s.phase := rfl
@[simp] theorem State.patch_hoff (s : State) : (s.patch f k).hoff = s.hoff := rfl
@[simp] theorem State.patch_line (s : State) : (s.patch f k).line = s.line := rfl
@[simp] theorem State.patch_col (s : State) : (s.patch f k).col = s.col := rfl
@[simp] theorem State.patch_kb (s : State) : (s.patch f k).kb = s.kb := rfl
@[simp] theorem State.patch_padcnt (s : State) : (s.patch f k).padcnt = s.padcnt := rfl
@[simp] theorem State.patch_npix (s : State) : (s.patch f k).npix = s.npix := rfl

theorem State.patch_setBank (s : State) (i : Bool) (b : Bank) :
    (s.patch f k).setBank i b = (s.setBank i b).patch f k := by
  cases i <;> rfl

theorem State.patch_raiseFail (s : State) (e : ErrCode) : (s.patch f k).raiseFail e = (s.raiseFail e).patch f k := by
  rw [State.raiseFail, State.discardWork, State.raiseFail, State.discardWork]
  exact congrArg (fun t : State => { t with free := s.free + 1, phase := .failed, err := e }) (s.patch_setBank _ _)

/-- The end of a step commutes with the change. -/
theorem settle_patch (base : State) (e : Effect) :
    settle (base.patch f k) (e.map (State.patch f k)) = mapNext (State.patch f k) (settle base e) := by
  cases e with
  | ok t => rfl
  | fail c => exact congrArg _ (base.patch_raiseFail c)
  | fault r => rfl

theorem pixWrite_patch (s : State) (a : Nat) (p : Pixel) :
    (s.patch f k).pixWrite a p = (s.pixWrite a p).map (State.patch f k) := by
  rw [State.pixWrite, State.pixWrite, apply_ite (Effect.map _)]
  exact congrArg (ite (a < s.cfg.cap) · _) (congrArg Effect.ok (s.patch_setBank _ _))

theorem settle_part_patch {part : State → Effect} (h : ∀ s, part (s.patch f k) = (part s).map (State.patch f k))
    (s : State) :
    settle (s.patch f k) (part (s.patch f k)) = mapNext (State.patch f k) (settle s (part s)) := by
  rw [h, settle_patch]

/-- An operation that does its step under a condition commutes with the change if its step does. -/
theorem ite_next_patch {c : Prop} [Decidable c] {s : State} {o o' : Host.Outcome State Fault Refusal}
    (ho : o' = mapNext (State.patch f k) o) :
    (if c then o' else .next (s.patch f k)) = mapNext (State.patch f k) (if c then o else .next s) := by
  rw [ho, apply_ite (mapNext _)]
  rfl

/-! ### What the rules read -/

variable (hf : Hidden f)
include hf

theorem State.patch_hdrAt (s : State) {j : Nat} (hj : uncheckedOffset j = false) : (s.patch f k).hdrAt j = s.hdrAt j :=
  congrArg (Option.getD · 0) (hf s.hdr j hj)

theorem State.patch_width (s : State) : (s.patch f k).width = s.width := by
  simp (disch := decide) only [State.width, State.le32, State.patch_hdrAt hf]

theorem State.patch_height (s : State) : (s.patch f k).height = s.height := by
  simp (disch := decide) only [State.height, State.le32, State.patch_hdrAt hf]

theorem State.patch_bpp (s : State) : (s.patch f k).bpp = s.bpp := by
  simp (disch := decide) only [State.bpp, State.le16, State.patch_hdrAt hf]

theorem State.patch_compr (s : State) : (s.patch f k).compr = s.compr := by
  simp (disch := decide) only [State.compr, State.le32, State.patch_hdrAt hf]

theorem State.patch_w (s : State) : (s.patch f k).w = s.w := congrArg BitVec.toNat (s.patch_width hf)

theorem State.patch_h (s : State) : (s.patch f k).h = s.h := congrArg BitVec.toNat (s.patch_height hf)

theorem State.patch_bytesPerPixel (s : State) : (s.patch f k).bytesPerPixel = s.bytesPerPixel :=
  congrArg (fun x : Half => x.toNat / 8) (s.patch_bpp hf)

theorem State.patch_padlen (s : State) : (s.patch f k).padlen = s.padlen := by
  rw [State.padlen, s.patch_w hf, s.patch_bytesPerPixel hf, State.padlen, State.patch_cfg]

theorem State.patch_pixelAddr (s : State) : (s.patch f k).pixelAddr = s.pixelAddr := by
  rw [State.pixelAddr, s.patch_w hf, s.patch_h hf, State.pixelAddr, State.patch_line, State.patch_col]

/-! ### The parts of a step -/

theorem sigchk_patch (b : Byte) (s : State) : sigchk b (s.patch f k) = (sigchk b s).map (State.patch f k) := by
  rw [sigchk, s.patch_hdrAt hf rfl, sigchk, apply_ite (Effect.map _)]
  rfl

theorem validate_patch (s : State) : validate (s.patch f k) = (validate s).map (State.patch f k) := by
  simp only [validate, s.patch_width hf, s.patch_height hf, s.patch_bpp hf, s.patch_compr hf, apply_ite (Effect.map _)]
  rfl

theorem alloc_patch (s : State) : alloc (s.patch f k) = (alloc s).map (State.patch f k) := by
  simp only [alloc_eq, s.patch_w hf, s.patch_h hf, apply_ite (Effect.map _), State.patch_cfg]
  rfl

theorem afterCapture_patch (b : Byte) (s : State) :
    afterCapture b (s.patch f k) = (afterCapture b s).map (State.patch f k) := by
  have hsig : ((sigchk b s).map (State.patch f k)).bind (fun t => .ok { t with hoff := t.hoff + 1 }) =
      ((sigchk b s).bind fun t => .ok { t with hoff := t.hoff + 1 }).map (State.patch f k) :=
    Effect.map_bind (fun _ => rfl) _
  have hjudge : ((validate s).map (State.patch f k)).bind alloc = ((validate s).bind alloc).map (State.patch f k) :=
    Effect.map_bind (alloc_patch hf) _
  simp only [afterCapture, State.patch_hoff, sigchk_patch hf, validate_patch hf, hsig, hjudge, apply_ite (Effect.map _)]
  rfl

theorem rowchk_patch (s : State) : rowchk (s.patch f k) = (rowchk s).map (State.patch f k) := by
  simp only [rowchk, s.patch_bytesPerPixel hf, s.patch_w hf, s.patch_h hf, State.patch_line, State.patch_npix,
    apply_ite (Effect.map _)]
  rfl

theorem rowchkAtStart_patch (s : State) : rowchkAtStart (s.patch f k) = (rowchkAtStart s).map (State.patch f k) := by
  simp only [rowchkAtStart, rowchk_patch hf, State.patch_col, State.patch_kb, apply_ite (Effect.map _)]
  rfl

theorem finalize_patch (s : State) : finalize (s.patch f k) = (finalize s).map (State.patch f k) := by
  simp only [finalize_eq, s.patch_w hf, s.patch_h hf, s.patch_width hf, s.patch_height hf, State.patch_cfg,
    State.patch_npix, apply_ite (Effect.map _)]
  rfl

theorem rowend_patch (s : State) : rowend (s.patch f k) = (rowend s).map (State.patch f k) := by
  simp only [rowend, finalize_patch hf, s.patch_h hf, State.patch_line, apply_ite (Effect.map _)]
  rfl

theorem nextColumn_patch (s : State) : nextColumn (s.patch f k) = (nextColumn s).map (State.patch f k) := by
  have hend := rowend_patch (k := k) hf { s with kb := 0, col := 0 }
  simp only [nextColumn, s.patch_w hf, s.patch_padlen hf, State.patch_col, apply_ite (Effect.map _), ← hend]
  rfl

theorem padByte_patch (s : State) : padByte (s.patch f k) = (padByte s).map (State.patch f k) := by
  have hend := rowend_patch (k := k) hf { s with padcnt := 0 }
  simp only [padByte, s.patch_padlen hf, State.patch_padcnt, apply_ite (Effect.map _), ← hend]
  rfl

theorem pixdone_patch (r g bl a : Byte) (s : State) :
    pixdone r g bl a (s.patch f k) = (pixdone r g bl a s).map (State.patch f k) := by
  rw [pixdone, s.patch_pixelAddr hf, pixWrite_patch, Effect.map_bind (nextColumn_patch hf)]
  rfl

theorem pixel24Byte_patch (b : Byte) (s : State) :
    pixel24Byte b (s.patch f k) = (pixel24Byte b s).map (State.patch f k) := by
  rcases pixel24Byte_cases b s with ⟨hk, h⟩ | ⟨hk, h⟩ | ⟨hk, h⟩ | ⟨hk, h⟩ <;> rw [h, pixel24Byte, State.patch_kb, hk]
  case inr.inr.inl => exact pixdone_patch hf _ _ _ _ s
  all_goals rfl

theorem pixel32Byte_patch (b : Byte) (s : State) :
    pixel32Byte b (s.patch f k) = (pixel32Byte b s).map (State.patch f k) := by
  rcases pixel32Byte_cases b s with ⟨hk, h⟩ | ⟨hk, h⟩ | ⟨hk, h⟩ | ⟨hk, h⟩ <;> rw [h, pixel32Byte, State.patch_kb, hk]
  case inr.inr.inr => exact pixdone_patch hf _ _ _ _ s
  all_goals rfl

/-! ### The operations -/

/-- A header byte commutes with the change if its capture does (R96). -/
theorem headerByte_patch {s : State} {b : Byte} (hc : (s.patch f k).capture b = (s.capture b).patch f k) :
    headerByte b (s.patch f k) = mapNext (State.patch f k) (headerByte b s) := by
  rw [headerByte, hc, afterCapture_patch hf, settle_patch]
  rfl

theorem execPix24_patch (b : Byte) (s : State) :
    execPix24 b (s.patch f k) = mapNext (State.patch f k) (execPix24 b s) := by
  rw [execPix24, s.patch_bpp hf]
  refine ite_next_patch (settle_part_patch (part := fun s => (rowchkAtStart s).bind (pixel24Byte b)) (fun s => ?_) s)
  rw [rowchkAtStart_patch hf, Effect.map_bind (pixel24Byte_patch hf b)]

theorem execPix32_patch (b : Byte) (s : State) :
    execPix32 b (s.patch f k) = mapNext (State.patch f k) (execPix32 b s) := by
  rw [execPix32, s.patch_bpp hf]
  refine ite_next_patch (settle_part_patch (part := fun s => (rowchkAtStart s).bind (pixel32Byte b)) (fun s => ?_) s)
  rw [rowchkAtStart_patch hf, Effect.map_bind (pixel32Byte_patch hf b)]

theorem execPadskip_patch (b : Byte) (s : State) :
    execPadskip b (s.patch f k) = mapNext (State.patch f k) (execPadskip b s) :=
  ite_next_patch (settle_part_patch (padByte_patch hf) s)

/-- BYTE commutes with the change if a capture does (R95). -/
theorem execByte_patch {s : State} {b : Byte}
    (hc : s.phase = .fhdr ∨ s.phase = .ihdr → (s.patch f k).capture b = (s.capture b).patch f k) :
    execByte b (s.patch f k) = mapNext (State.patch f k) (execByte b s) := by
  rw [execByte, execByte, State.patch_phase, s.patch_bpp hf]
  cases hp : s.phase with
  | fhdr => exact headerByte_patch hf (hc (.inl hp))
  | ihdr => exact headerByte_patch hf (hc (.inr hp))
  | pix =>
    simp only [execPix24_patch hf, execPix32_patch hf]
    exact (apply_ite (mapNext _) _ _ _).symm
  | pad => exact execPadskip_patch hf b s
  | idle | done | failed => rfl

theorem execEos_patch (s : State) : execEos (s.patch f k) = mapNext (State.patch f k) (execEos s) := by
  have hfail (e : ErrCode) : Host.Outcome.next ((s.patch f k).raiseFail e) =
      mapNext (State.patch f k) (.next (s.raiseFail e) : Host.Outcome State Fault Refusal) :=
    congrArg _ (s.patch_raiseFail e)
  have hcommit : settle (s.patch f k) (finalize { s.patch f k with padcnt := 0 }) =
      mapNext (State.patch f k) (settle s (finalize { s with padcnt := 0 })) :=
    settle_part_patch (part := fun s => finalize { s with padcnt := 0 })
      (fun s => finalize_patch hf { s with padcnt := 0 }) s
  rw [execEos, execEos, s.patch_h hf]
  refine ite_next_patch ?_
  simp only [hfail, hcommit, apply_ite (mapNext _)]
  rfl

end

/-! ### The inbox -/

/-- Settles O45: the inbox is replaced and the capture array left as it is. -/
theorem pendingInputsDoNotMatter : Obligations.PendingInputsDoNotMatter := by
  intro i s xs
  change exec i (s.patch id fun _ => xs) = mapNext (State.patch id fun _ => xs) (exec i s)
  have hpart {part : State → Effect}
      (h : ∀ s, part (s.patch id fun _ => xs) = (part s).map (State.patch id fun _ => xs)) :
      settle (s.patch id fun _ => xs) (part (s.patch id fun _ => xs)) =
        mapNext (State.patch id fun _ => xs) (settle s (part s)) :=
    settle_part_patch h s
  have hheader (b : Byte) := headerByte_patch (k := fun _ => xs) (s := s) (b := b) hidden_id rfl
  cases i with
  | reset => rfl
  | start =>
    show execStart _ = mapNext _ (execStart s)
    rw [execStart, execStart, apply_ite (mapNext _)]
    rfl
  | eos => exact execEos_patch hidden_id s
  | byte b => exact execByte_patch hidden_id fun _ => rfl
  | rdreg n => rfl
  | rdpix a =>
    show execRdpix a _ = mapNext _ (execRdpix a s)
    rw [execRdpix, execRdpix, apply_ite (mapNext _)]
    rfl
  | fhSig b | fhFsize b | fhRsv1 b | fhRsv2 b | fhOffbits b | ihSize b | ihWidth b | ihHeight b | ihPlanes b | ihBpp b
  | ihCompr b | ihImgsize b | ihXppm b | ihYppm b | ihClrused b | ihClrimp b | hcap b =>
    exact ite_next_patch (hheader b)
  | pix24 b => exact execPix24_patch hidden_id b s
  | pix32 b => exact execPix32_patch hidden_id b s
  | padskip b => exact execPadskip_patch hidden_id b s
  | sigchk b => exact hpart (sigchk_patch hidden_id b)
  | validate => exact hpart (validate_patch hidden_id)
  | alloc => exact hpart (alloc_patch hidden_id)
  | rowchk => exact hpart (rowchk_patch hidden_id)
  | pixdone r g bl a => exact hpart (pixdone_patch hidden_id r g bl a)
  | rowend => exact hpart (rowend_patch hidden_id)
  | finalize => exact hpart (finalize_patch hidden_id)
  | fail e => exact congrArg _ (s.patch_raiseFail e)

/-! ### The unchecked fields -/

/-- Replacing a capture byte as a change of the capture array. -/
theorem State.setHdr_eq_patch (j : Nat) (v : Byte) :
    (fun t : State => t.setHdr j v) = State.patch (fun hdr => hdr.setIfInBounds j v) id := rfl

/-- The value of a byte matters to what follows its capture at the signature only (R96, R116). -/
theorem afterCapture_value {s : State} (h1 : s.hoff ≠ 1) (b c : Byte) : afterCapture b s = afterCapture c s := by
  rw [afterCapture, if_neg h1, afterCapture, if_neg h1]

theorem setIfInBounds_setIfInBounds_same (v : Vector Byte 54) (i : Nat) (b c : Byte) :
    (v.setIfInBounds i b).setIfInBounds i c = v.setIfInBounds i c := by
  ext j hj
  by_cases h : i = j <;> simp [h]

/-- Settles O47: the second value is written over the first after the step. -/
theorem uncheckedByteValueHasNoEffect : Obligations.UncheckedByteValueHasNoEffect := by
  intro s b c hp hoff
  have h1 : s.hoff ≠ 1 := fun h => by rw [h] at hoff; exact absurd hoff (by decide)
  have hover : s.capture c = (s.capture b).patch (fun hdr => hdr.setIfInBounds s.hoff.toNat c) id := by
    simp only [State.capture, State.patch, setIfInBounds_setIfInBounds_same]
    rfl
  rw [exec_byte_header hp, exec_byte_header hp, State.setHdr_eq_patch, hover, afterCapture_patch (hidden_set hoff c),
    settle_patch, afterCapture_value (s := s.capture b) h1 c b]

theorem setIfInBounds_comm (v : Vector Byte 54) {i j : Nat} (h : i ≠ j) (b c : Byte) :
    (v.setIfInBounds i b).setIfInBounds j c = (v.setIfInBounds j c).setIfInBounds i b := by
  ext l hl
  simp only [Vector.getElem_setIfInBounds]
  split <;> split <;> simp_all

/-- Settles O48: a capture elsewhere commutes with the change, and no rule reads the byte. -/
theorem uncheckedFieldIsNeverUsed : Obligations.UncheckedFieldIsNeverUsed := by
  intro s i j v hj hpos hi
  have hf := hidden_set hj v
  rcases hi with rfl | ⟨b, rfl⟩
  · exact execEos_patch (k := id) hf s
  · refine execByte_patch (k := id) hf fun hp => ?_
    have hne : s.hoff.toNat ≠ j := hpos.resolve_right fun hr => by
      rcases hp with hp | hp <;> rcases hr with hr | hr <;> cases hp.symm.trans hr
    simp only [State.capture, State.patch, setIfInBounds_comm s.hdr hne]

end Sys2Proof.Machine
end

section
/-! SUPPORT. A load as the environment presents it, one input at a time (R40, R44, logs 1 and 3), and how every load
ends (R97); and the statements O49 and O50. -/

namespace Sys2Proof.Machine

/-! ### Presenting a stream -/

/-- A run of no steps stays where it is. -/
theorem andThen_next (o : Host.Outcome State Fault Refusal) : andThen o .next = o := by
  cases o <;> rfl

theorem exec_withInbox (i : Instr) (s : State) (xs : List Input) :
    exec i { s with inbox := xs } = mapNext (fun t => { t with inbox := xs }) (exec i s) :=
  pendingInputsDoNotMatter i s xs

/-- The inputs of a stream after its START edge. -/
def streamInputs (f : List Byte) : List Input := (f.map fun b => .edge (.beat b)) ++ [.edge .eosBeat]

theorem loadInputs_eq (f : List Byte) : loadInputs f = .edge .startEdge :: streamInputs f := rfl

theorem streamInputs_cons (b : Byte) (f : List Byte) : streamInputs (b :: f) = .edge (.beat b) :: streamInputs f := rfl

/-- Outside BUSY a beat is taken from the list and lost (R41, log 3). -/
theorem step_beat_notBusy {s : State} (hwf : s.cfg.wf = true) (hb : s.busy = false) {p : Pins} (hr : p.rst = false)
    (hs : p.start = false) (hv : p.inValid = true) (rest : List Input) :
    step { s with inbox := .edge p :: rest } = .next { s with inbox := rest } := by
  have hd : decode s.selector (.edge p) = .error .beatNotReady := by
    rw [decode_edge, State.selector_phase, show s.phase.busy = false from hb, decodeEdge_notBusy_noStart hr hs, hv]
    rfl
  obtain ⟨-, hnoEvent, -⟩ := stepWithoutEventChangesNothing { s with inbox := .edge p :: rest }
  exact hnoEvent _ rest _ hwf rfl hd nofun

/-- In BUSY a beat or the end of the stream is taken and its event run (R41). -/
theorem step_event_withInbox {s : State} {x : Input} {e : Instr} (hwf : s.cfg.wf = true)
    (he : decodeEvent s.busy s.cfg.sz x = .ok e) (rest : List Input) :
    step { s with inbox := x :: rest } = mapNext (fun t => { t with inbox := rest }) (exec e s) := by
  rw [step_of_event hwf he, exec_withInbox]

/-- The steps over the inputs of a stream are the delivery of the stream. -/
theorem run_streamInputs (f : List Byte) {s : State} (hwf : s.cfg.wf = true) :
    Host.Core.run Sys2Proof.core (f.length + 1) { s with inbox := streamInputs f } =
      mapNext (fun t => { t with inbox := [] }) (deliver f s) := by
  induction f generalizing s with
  | nil =>
    refine (core_run_succ 0 _).trans ((andThen_next _).trans ?_)
    rw [deliver]
    cases hb : s.busy with
    | true => exact step_event_withInbox hwf (x := .edge .eosBeat) (e := .eos) (by rw [hb]; rfl) []
    | false => exact step_beat_notBusy hwf hb rfl rfl rfl []
  | cons b rest ih =>
    refine (core_run_succ (rest.length + 1) _).trans ?_
    rw [streamInputs_cons]
    cases hb : s.busy with
    | true =>
      rw [step_event_withInbox hwf (e := .byte b) (by rw [hb]; rfl), deliver, if_pos hb]
      cases hu : exec (.byte b) s with
      | next u =>
        have hcfg := parametersNeverChange _ _ _ hu
        exact ih (s := u) (by rw [hcfg]; exact hwf)
      | fault r => rfl
      | refused r => rfl
    | false =>
      rw [step_beat_notBusy hwf hb rfl rfl rfl, deliver_notBusy hb, ← deliver_notBusy hb rest]
      exact ih hwf

/-- Settles O49: the START edge begins the load, and the rest of the inputs are its stream. -/
theorem stepsOfALoadAreTheLoad : Obligations.StepsOfALoadAreTheLoad := by
  intro s f hinv hb
  refine (core_run_succ (f.length + 1) _).trans ?_
  rw [loadInputs_eq, step_event_withInbox hinv.parameters (e := .start) (by rw [hb]; rfl), exec_start_notBusy hb,
    load_notBusy hb]
  exact run_streamInputs f (s := s.beginLoad) hinv.parameters

/-! ### How a load ends -/

/-- The end of the stream ends a load (R93, R94). -/
theorem exec_eos_phase {s t : State} (hb : s.busy = true) (ht : exec .eos s = .next t) :
    t.phase = .done ∨ t.phase = .failed := by
  change execEos s = .next t at ht
  rw [execEos, if_pos hb] at ht
  split at ht
  · cases ht; exact .inr rfl
  · split at ht
    · rcases settle_eq_next ht with hok | ⟨e, -, rfl⟩
      · rcases finalize_cases { s with padcnt := 0 } with ⟨-, hf⟩ | hf <;> cases hf.symm.trans hok
        exact .inl rfl
      · exact .inr rfl
    · cases ht; exact .inr rfl

/-- No byte leads back to IDLE (R97). -/
theorem State.Inv.exec_byte_ne_idle {s t : State} {b : Byte} (h : s.Inv) (hp : s.phase ≠ .idle)
    (ht : exec (.byte b) s = .next t) : t.phase ≠ .idle := by
  cases hphase : s.phase with
  | fhdr | ihdr =>
    rw [exec_byte_header (by simp [hphase])] at ht
    rcases settle_eq_next ht with hok | ⟨e, -, rfl⟩
    · rcases afterCapture_cases b (s.capture b) with
        ⟨-, -, -, hc⟩ | ⟨-, hc⟩ | ⟨-, hc⟩ | ⟨-, hc⟩ | ⟨-, -, -, hc⟩ | ⟨-, hc⟩ <;> rw [hc] at hok
      · cases hok; exact hp
      · cases hok
      · cases hok; exact nofun
      · rw [phase_of_validate_alloc hok]; exact nofun
      · cases hok; exact hp
      · cases hok; exact hp
    · exact nofun
  | pix | pad =>
    obtain ⟨u, hu, -, hadv⟩ := exec_byte_rows (h.scanning (by simp [State.inRows, hphase])) b
    obtain rfl : u = t := Host.Outcome.next.inj (hu.symm.trans ht)
    rcases hadv.moves with ⟨hscan, -⟩ | ⟨hdone, -⟩
    · rcases hscan.place with ⟨hp', -⟩ | ⟨hp', -⟩ <;> rw [hp'] <;> exact nofun
    · rw [hdone]; exact nofun
  | idle => exact absurd hphase hp
  | done | failed =>
    rw [exec_byte_notBusy (by rw [State.busy, hphase]; rfl)] at ht
    exact Host.Outcome.next.inj ht ▸ hp

theorem State.ended_of_notBusy {s : State} (hb : s.busy = false) (hp : s.phase ≠ .idle) :
    s.phase = .done ∨ s.phase = .failed := by
  cases hphase : s.phase with
  | idle => exact absurd hphase hp
  | done => exact .inl rfl
  | failed => exact .inr rfl
  | fhdr | ihdr | pix | pad => rw [State.busy, hphase] at hb; cases hb

/-- A stream delivered to a load in any of its phases ends it. -/
theorem deliver_ends (f : List Byte) {s : State} (h : s.Inv) (hp : s.phase ≠ .idle) :
    ∃ t, deliver f s = .next t ∧ (t.phase = .done ∨ t.phase = .failed) ∧ t.Inv := by
  induction f generalizing s with
  | nil =>
    cases hb : s.busy with
    | true =>
      obtain ⟨t, ht⟩ := exec_eos_completes s
      exact ⟨t, (if_pos hb).trans ht, exec_eos_phase hb ht, exec_eos_inv h ht⟩
    | false => exact ⟨s, deliver_notBusy hb [], State.ended_of_notBusy hb hp, h⟩
  | cons b rest ih =>
    cases hb : s.busy with
    | true =>
      obtain ⟨u, hu⟩ := h.exec_byte_completes b
      rw [deliver, if_pos hb, hu]
      exact ih (exec_byte_inv h hu) (h.exec_byte_ne_idle hp hu)
    | false => exact ⟨s, deliver_notBusy hb _, State.ended_of_notBusy hb hp, h⟩

/-- Settles O50: START begins the load, in whose phases the stream is delivered. -/
theorem everyLoadEnds : Obligations.EveryLoadEnds := by
  intro s f hinv hb
  rw [load_notBusy hb]
  exact deliver_ends f hinv.beginLoad nofun

end Sys2Proof.Machine
end

section
/-! SUPPORT. Loads that end inside their header, or on its last byte (R93, R94, R116, R141, R144, R195), and the
statements O54, O55 and O59. -/

namespace Sys2Proof.Machine

/-- A stretch that ends a load is all the load takes of the stream (R41, R98). -/
theorem Takes.ends_load {s t : State} {f : List Byte} {k : Nat} (h : Takes s.beginLoad (f.take k) t) (ht : t.busy = false)
    (hk : k ≤ f.length) (hidle : s.busy = false) : consumed f s.beginLoad = k ∧ load f s = .next t := by
  have hcount := h.consumed_append (f.drop k)
  have hwhole := h.deliver_append (f.drop k)
  rw [List.take_append_drop, consumed_notBusy ht, List.length_take, Nat.min_eq_left hk] at hcount
  rw [List.take_append_drop, deliver_notBusy ht] at hwhole
  exact ⟨hcount, (load_notBusy hidle f).trans hwhole⟩

/-- The capture registers beyond the bytes read are 0 (R91). -/
theorem State.hdrAt_headerBytes_zero {t : State} {f : List Byte} {k j : Nat} (ht : t.hdr = headerBytes f k) (hj : k ≤ j) :
    t.hdrAt j = 0 := by
  by_cases h54 : j < 54
  · simp [State.hdrAt, ht, headerBytes, h54, Nat.not_lt.mpr hj]
  · simp [State.hdrAt, h54]

/-- A bad signature fails on its second byte (R116). -/
theorem exec_byte_badSignature (s : State) {f : List Byte} (hbad : ¬(byteAt f 0 = 0x42 ∧ byteAt f 1 = 0x4D)) :
    exec (.byte (byteAt f 1)) (s.headerRead f 1) =
      .next (State.raiseFail { s.headerRead f 1 with hdr := headerBytes f 2 } .signature) := by
  have h0 : State.hdrAt { s.headerRead f 1 with hdr := headerBytes f 2 } 0 = byteAt f 0 :=
    State.hdrAt_headerBytes rfl (by decide) (by decide)
  rw [exec_byte_header (s.headerRead_phase f 1), s.headerRead_capture f (by decide), afterCapture_badSignature rfl
    (by rw [h0]; exact hbad), settle_fail]

/-- Settles O54: the first byte is captured, the second fails. -/
theorem badSignatureConsumesTwoBytes : Obligations.BadSignatureConsumesTwoBytes := by
  intro s f _ hidle hlen hbad
  have htake : Takes s.beginLoad (f.take 2)
      (State.raiseFail { s.headerRead f 1 with hdr := headerBytes f 2 } .signature) := by
    rw [take_succ_eq_snoc_byteAt (show 1 < f.length from hlen)]
    exact (takes_headerRead s (by decide) (Nat.le_of_succ_le hlen) fun h => absurd h (by decide)).snoc
      (s.headerRead_busy f 1) (exec_byte_badSignature s hbad)
  obtain ⟨hcount, hload⟩ := htake.ends_load (State.raiseFail_busy _ _) hlen hidle
  have hhdr (j : Nat) := State.raiseFail_hdrAt { s.headerRead f 1 with hdr := headerBytes f 2 } .signature j
  refine ⟨s.beginLoad, _, exec_start_notBusy hidle, hcount, hload, rfl, rfl, ?_, ?_, fun j hj => ?_, ?_⟩
  · exact (hhdr 0).trans (State.hdrAt_headerBytes rfl (by decide) (by decide))
  · exact (hhdr 1).trans (State.hdrAt_headerBytes rfl (by decide) (by decide))
  · exact (hhdr j).trans (State.hdrAt_headerBytes_zero rfl hj)
  · exact State.raiseFail_hoff _ _

/-! ### A whole header that is not legal -/

/-- The code with which a header that is not legal fails, first match wins (R195). -/
def headerCode (cfg : Config.Params) (f : List Byte) : ErrCode :=
  if fileW f = 0 ∨ fileH f = 0 then .zeroDim
  else if fileLe16 f 28 ≠ 24 ∧ fileLe16 f 28 ≠ 32 then .bpp
  else if fileLe32 f 30 ≠ 0 then .compression
  else if 2 ^ cfg.sz ≤ fileW f * fileH f then .overflow
  else .capacity

theorem State.headerWhole_bpp_eq_iff (s : State) (f : List Byte) (v : Half) :
    (s.headerWhole f).bpp = v ↔ fileLe16 f 28 = v.toNat := by
  rw [← BitVec.toNat_inj, s.headerWhole_bpp_toNat]

theorem State.headerWhole_compr_eq_iff (s : State) (f : List Byte) :
    (s.headerWhole f).compr = 0 ↔ fileLe32 f 30 = 0 := by
  rw [← BitVec.toNat_inj, s.headerWhole_compr_toNat]
  rfl

/-- The judgement of the stream's header, in the stream's own numbers (R142, R195). -/
theorem exec_byte_illegalHeader {s : State} {f : List Byte} (hlen : 54 ≤ f.length)
    (hsig : byteAt f 0 = 0x42 ∧ byteAt f 1 = 0x4D) (hbad : ¬HeaderLegal s.cfg f) :
    exec (.byte (byteAt f 53)) (s.headerRead f 53) = .next ((s.headerWhole f).raiseFail (headerCode s.cfg f)) := by
  have h24 : (s.headerWhole f).bpp = 24 ↔ fileLe16 f 28 = 24 := s.headerWhole_bpp_eq_iff f 24
  have h32 : (s.headerWhole f).bpp = 32 ↔ fileLe16 f 28 = 32 := s.headerWhole_bpp_eq_iff f 32
  have hcfg : (s.headerWhole f).cfg = s.cfg := rfl
  rw [exec_byte_lastHeader, judgement_eq]
  simp only [s.headerWhole_w, s.headerWhole_h, ne_eq, h24, h32, s.headerWhole_compr_eq_iff, hcfg, exec_fail, headerCode]
  by_cases hdim : fileW f = 0 ∨ fileH f = 0
  · simp only [if_pos hdim]
  by_cases hbpp : ¬fileLe16 f 28 = 24 ∧ ¬fileLe16 f 28 = 32
  · simp only [if_neg hdim, if_pos hbpp]
  by_cases hcompr : fileLe32 f 30 = 0
  case neg => simp only [if_neg hdim, if_neg hbpp, if_pos hcompr]
  by_cases hover : 2 ^ s.cfg.sz ≤ fileW f * fileH f
  · simp only [if_neg hdim, if_neg hbpp, if_neg (not_not_intro hcompr), if_pos hover]
  by_cases hcap : s.cfg.cap < fileW f * fileH f
  · simp only [if_neg hdim, if_neg hbpp, if_neg (not_not_intro hcompr), if_neg hover, if_pos hcap]
  have hdepth : fileLe16 f 28 = 24 ∨ fileLe16 f 28 = 32 := by omega
  exact absurd ⟨hlen, hsig, not_or.mp hdim, hdepth, hcompr, Nat.le_of_not_lt hcap⟩ hbad

/-- Settles O55: 53 bytes are captured, and the last one is judged. -/
theorem illegalHeaderFailsOnItsLastByte : Obligations.IllegalHeaderFailsOnItsLastByte := by
  intro s f _ hidle hlen h0 h1 hbad
  have htake : Takes s.beginLoad (f.take 54) ((s.headerWhole f).raiseFail (headerCode s.cfg f)) := by
    rw [take_succ_eq_snoc_byteAt (show 53 < f.length from hlen)]
    exact (takes_headerRead s (by decide) (Nat.le_of_succ_le hlen) fun _ => ⟨h0, h1⟩).snoc
      (s.headerRead_busy f 53) (exec_byte_illegalHeader hlen ⟨h0, h1⟩ hbad)
  obtain ⟨hcount, hload⟩ := htake.ends_load (State.raiseFail_busy _ _) hlen hidle
  refine ⟨s.beginLoad, _, exec_start_notBusy hidle, hcount, hload, rfl, State.raiseFail_hoff _ _, State.raiseFail_npix _ _,
    fun j hj => ?_, rfl⟩
  rw [State.raiseFail_hdrAt, s.headerWhole_hdrAt f hj]

/-! ### A stream shorter than the header -/

theorem State.headerRead_hdr (s : State) (f : List Byte) (k : Nat) : (s.headerRead f k).hdr = headerBytes f k := rfl

/-- The end of a stream inside its header: nothing at all is a failed open, anything less than the header a failed
read (R93, R94). -/
theorem exec_eos_headerRead (s : State) (f : List Byte) {k : Nat} (hk : k < 54) :
    exec .eos (s.headerRead f k) = .next ((s.headerRead f k).raiseFail (if k = 0 then .openFailed else .io)) := by
  by_cases h0 : k = 0
  · subst h0
    rw [exec_eos_open rfl rfl, if_pos rfl, exec_fail]
  · have hoff := s.headerRead_hoff_toNat f hk
    rw [exec_eos_io (s.headerRead_busy f k), if_neg h0, exec_fail]
    · rintro ⟨-, hzero⟩
      rw [hzero] at hoff
      exact h0 hoff.symm
    · rintro ⟨-, hpad, -⟩
      rcases s.headerRead_phase f k with hp | hp <;> cases hp.symm.trans hpad

/-- Settles O59: the whole stream is captured, and its end meets the header half read. -/
theorem streamShorterThanHeaderFails : Obligations.StreamShorterThanHeaderFails := by
  intro s f _ hidle hlen hsig
  have htake : Takes s.beginLoad f (s.headerRead f f.length) := by
    have h := takes_headerRead s (f := f) (Nat.le_of_lt_succ hlen) (Nat.le_refl _) fun h2 =>
      hsig.resolve_left (Nat.not_le.mpr h2)
    rwa [List.take_length] at h
  have hload : load f s = exec .eos (s.headerRead f f.length) := by
    have h := htake.deliver_append []
    rw [List.append_nil, deliver, if_pos (s.headerRead_busy f f.length)] at h
    rw [load_notBusy hidle, h]
  rw [exec_eos_headerRead s f hlen] at hload
  refine ⟨_, hload, rfl, rfl, ?_, State.raiseFail_npix _ _, fun j hj => ?_, fun j hj => ?_⟩
  · rw [State.raiseFail_hoff, s.headerRead_hoff_toNat f hlen]
  · rw [State.raiseFail_hdrAt, State.hdrAt_headerBytes (s.headerRead_hdr f _) hj (Nat.le_of_lt hlen)]
  · rw [State.raiseFail_hdrAt, State.hdrAt_headerBytes_zero (s.headerRead_hdr f _) hj]

end Sys2Proof.Machine
end

section
/-! SUPPORT. The rows of a stream with a legal header, byte by byte (R70, R160, R165, R177): what is held of the pixel
under way, the pixels stored, and how the load goes on where the stream ends; and the statements O51, O53 and O58. -/

namespace Sys2Proof.Machine

/-! ### What the stream says of the rows -/

/-- The stream offset of the first byte of the pixel under way. -/
def State.pixelStart (s : State) : Nat := 54 + s.line.toNat * s.rowBytes + s.col.toNat * s.bytesPerPixel

/-- The bytes held of the pixel under way are the stream's (R162). -/
structure State.Holds (f : List Byte) (s : State) : Prop where
  blue : 1 ≤ s.kb.toNat → s.pxb = byteAt f s.pixelStart
  green : 2 ≤ s.kb.toNat → s.pxg = byteAt f (s.pixelStart + 1)
  red : 3 ≤ s.kb.toNat → s.pxr = byteAt f (s.pixelStart + 2)

/-- A word of the store is the pixel of the stream's picture at its row-major index (R51, R177). -/
def ofPicture (cfg : Config.Params) (f : List Byte) (a : Nat) (p : Pixel) : Prop :=
  p = filePixel cfg f (a % fileW f) (a / fileW f)

theorem State.Holds.of_kb_zero {f : List Byte} {s : State} (h : s.kb = 0) : s.Holds f := by
  constructor <;> intro hk <;> rw [h] at hk <;> exact absurd hk (by decide)

theorem State.RowTaken.kb {s u : State} {b : Byte} (h : s.Scanning) (hu : s.RowTaken b u) : u.kb = 0 := by
  cases hu with
  | pixel => rfl
  | padding hp =>
    rcases h.place with ⟨hpix, -⟩ | ⟨-, -, -, hkb⟩
    · cases hp.symm.trans hpix
    · exact hkb

/-- In PIX the next byte of the stream is the pixel's next one (R162). -/
theorem State.pixelStart_add_kb {s : State} (hp : s.phase = .pix) : s.pixelStart + s.kb.toNat = 54 + s.scanned := by
  rw [State.scanned, State.rowPos_pix hp, State.pixelStart]
  omega

/-- The next byte of the stream is held by its role, or begins a new pixel (R162). -/
theorem State.Holds.rowByte {f : List Byte} {s t : State} {b : Byte} (h : s.Scanning) (hh : s.Holds f)
    (hb : b = byteAt f (54 + s.scanned)) (ht : s.RowByte b t) : t.Holds f := by
  cases ht with
  | hold hp hkb =>
    have hB := h.bytesPerPixel
    have hnext : (s.kb + 1).toNat = s.kb.toNat + 1 := toNat_add_one (by omega)
    rw [← State.pixelStart_add_kb hp] at hb
    have hkb_eq (v : BitVec 2) (hv : s.kb.toNat = v.toNat) : s.kb = v := BitVec.eq_of_toNat_eq hv
    have hrole (v : BitVec 2) (old : Byte) (hlt : v.toNat < (s.kb + 1).toNat)
        (hold : v.toNat + 1 ≤ s.kb.toNat → old = byteAt f (s.pixelStart + v.toNat)) :
        (if s.kb = v then b else old) = byteAt f (s.pixelStart + v.toNat) := by
      by_cases hv : s.kb = v
      · rw [if_pos hv, hb, hv]
      · have hne : s.kb.toNat ≠ v.toNat := fun h => hv (hkb_eq v h)
        rw [if_neg hv]
        exact hold (by omega)
    exact ⟨fun hk => hrole 0 s.pxb hk hh.blue, fun hk => hrole 1 s.pxg hk hh.green, fun hk => hrole 2 s.pxr hk hh.red⟩
  | pixel | toPadding => exact .of_kb_zero rfl
  | padding hp =>
    rcases h.place with ⟨hpix, -⟩ | ⟨-, -, -, hkb⟩
    · cases hp.symm.trans hpix
    · exact .of_kb_zero hkb
  | nextRow u hu | commit u hu =>
    have hkb := hu.kb h
    exact .of_kb_zero hkb

theorem State.rowsBegin_rowBytes (s : State) (f : List Byte) : (s.rowsBegin f).rowBytes = Machine.rowBytes s.cfg f := by
  have hrow : (s.headerWhole f).rowBytes = Machine.rowBytes s.cfg f := by
    rw [State.rowBytes, s.headerWhole_w, s.headerWhole_bytesPerPixel, s.headerWhole_padlen, Machine.rowBytes]
  exact hrow

section
variable {s0 s : State} {f : List Byte} (e : (s0.rowsBegin f).SameSize s)
include e

theorem State.SameSize.w_eq_fileW : s.w = fileW f := e.w.trans (s0.headerWhole_w f)

theorem State.SameSize.h_eq_fileH : s.h = fileH f := e.h.trans (s0.headerWhole_h f)

theorem State.SameSize.bytesPerPixel_eq_fileB : s.bytesPerPixel = fileB f :=
  e.bytesPerPixel.trans (s0.headerWhole_bytesPerPixel f)

theorem State.SameSize.rowBytes_eq_file : s.rowBytes = Machine.rowBytes s0.cfg f :=
  e.rowBytes.trans (s0.rowsBegin_rowBytes f)

theorem State.SameSize.padlen_eq_file : s.padlen = filePadlen s0.cfg f := e.padlen.trans (s0.headerWhole_padlen f)

/-- The pixel that the next byte completes is the picture's at the index it is stored at (R165, R177). -/
theorem State.Scanning.pixelOf_ofPicture (h : s.Scanning) (hh : s.Holds f) (hp : s.phase = .pix) (hcol : s.col.toNat < s.w)
    (hkb : s.kb.toNat + 1 = s.bytesPerPixel) :
    ofPicture s0.cfg f s.pixelAddr (s.pixelOf (byteAt f (54 + s.scanned))) := by
  have hx : s.pixelAddr % s.w = s.col.toNat := by
    rw [State.pixelAddr, Nat.mul_comm, Nat.mul_add_mod, Nat.mod_eq_of_lt hcol]
  have hy : s.pixelAddr / s.w = s.h - 1 - s.line.toNat := by
    rw [State.pixelAddr, Nat.mul_comm, Nat.mul_add_div (Nat.zero_lt_of_lt hcol), Nat.div_eq_of_lt hcol, Nat.add_zero]
  have hl := h.line
  have hstart : 54 + (s.h - 1 - (s.h - 1 - s.line.toNat)) * s.rowBytes + s.col.toNat * s.bytesPerPixel = s.pixelStart := by
    rw [State.pixelStart, show s.h - 1 - (s.h - 1 - s.line.toNat) = s.line.toNat by omega]
  have hbyte := State.pixelStart_add_kb hp
  rw [ofPicture, filePixel, ← e.w_eq_fileW, ← e.h_eq_fileH, ← e.bytesPerPixel_eq_fileB, ← e.rowBytes_eq_file, hx, hy,
    hstart, ← hbyte, State.pixelOf]
  rcases h.depth with h24 | h32
  · have hB := State.bytesPerPixel_of_bpp_24 h24
    have hk : s.kb.toNat = 2 := by omega
    rw [if_pos h24, hB, hk, hh.blue (by omega), hh.green (by omega)]
    rfl
  · have hB := State.bytesPerPixel_of_bpp_32 h32
    have hk : s.kb.toNat = 3 := by omega
    rw [if_neg (by rw [h32]; decide), hB, hk, hh.blue (by omega), hh.green (by omega), hh.red (by omega)]
    rfl

end

/-! ### Running over the rows -/

/-- The load of `f` that began in `s0` stands in its rows, with everything before the position stored as the picture
says. -/
structure State.Reads (s0 : State) (f : List Byte) (s : State) : Prop where
  size : (s0.rowsBegin f).SameSize s
  rows : s.RowsInv (ofPicture s0.cfg f)
  held : s.Holds f

/-- The load of `f` that began in `s0` has committed the whole picture. -/
structure State.Shows (s0 : State) (f : List Byte) (s : State) : Prop where
  size : (s0.rowsBegin f).SameSize s
  loaded : s.Loaded (ofPicture s0.cfg f)

/-- A legal header begins the rows with nothing stored (R144). -/
theorem HeaderLegal.reads {s : State} {f : List Byte} (h : HeaderLegal s.cfg f) (hp : s.cfg.wf = true) :
    s.Reads f (s.rowsBegin f) where
  size := .refl _
  rows := by
    have hB := (s.headerWhole_hdrAt f (j := 0) (by decide)).trans h.signature.1
    have hM := (s.headerWhole_hdrAt f (j := 1) (by decide)).trans h.signature.2
    obtain ⟨-, -, -, hcompr⟩ := h.headerValid s
    exact ⟨h.scanning hp, ⟨hB, hM⟩, hcompr, rfl, rfl, fun _ => rfl,
      fun a ha hfin => absurd hfin (State.not_finished_start (h.rowsBegin_sized hp) rfl rfl rfl ha)⟩
  held := .of_kb_zero rfl

theorem State.Scanning.phase_ne_done {s : State} (h : s.Scanning) : s.phase ≠ .done := by
  rcases h.place with ⟨hp, -⟩ | ⟨hp, -⟩ <;> rw [hp] <;> exact nofun

section
variable {s0 s : State} {f : List Byte} (h : s0.Reads f s)
include h

/-- The next byte of the stream takes the load one position on, or commits the picture. -/
theorem State.Reads.next : ∃ t, exec (.byte (byteAt f (54 + s.scanned))) s = .next t ∧
    ((s0.Reads f t ∧ t.scanned = s.scanned + 1) ∨ (s0.Shows f t ∧ s.scanned + 1 = (s0.rowsBegin f).allRowBytes)) := by
  have hscan := h.rows.toScanning
  obtain ⟨t, ht, hrow, hadv⟩ := exec_byte_rows hscan (byteAt f (54 + s.scanned))
  have e := h.size.trans hadv.sameSize
  have hcol (hp : s.phase = .pix) : s.col.toNat < s.w := by
    rcases hscan.place with ⟨-, hcol, -⟩ | ⟨hpad, -⟩
    · exact hcol
    · cases hp.symm.trans hpad
  have hnext := h.rows.rowByte (fun hp hkb => hscan.pixelOf_ofPicture h.size h.held hp (hcol hp) hkb) hrow hadv
  refine ⟨t, ht, hadv.moves.imp (fun ⟨hscan', hpos⟩ => ?_) (fun ⟨hdone, hpos⟩ => ?_)⟩
  · have hrows := hnext.resolve_right fun hl => hscan'.phase_ne_done hl.phase
    exact ⟨⟨e, hrows, h.held.rowByte hscan rfl hrow⟩, hpos⟩
  · have hload := hnext.resolve_left fun hrows => hrows.phase_ne_done hdone
    exact ⟨⟨e, hload⟩, hpos.trans h.size.allRowBytes⟩

end

/-- The stream at a position, one byte off. -/
theorem drop_eq_byteAt_cons {f : List Byte} {k : Nat} (hk : k < f.length) : f.drop k = byteAt f k :: f.drop (k + 1) := by
  rw [List.drop_eq_getElem_cons hk, byteAt, List.getD_eq_getElem?_getD, List.getElem?_eq_getElem hk, Option.getD_some]

/-- A stretch of the stream in the rows is taken whole. -/
theorem State.Reads.takes {s0 s : State} {f : List Byte} (n : Nat) (h : s0.Reads f s)
    (hn : s.scanned + n ≤ (s0.rowsBegin f).allRowBytes) (hlen : 54 + s.scanned + n ≤ f.length) :
    ∃ t, Takes s ((f.drop (54 + s.scanned)).take n) t ∧
      ((s0.Reads f t ∧ t.scanned = s.scanned + n) ∨ (s0.Shows f t ∧ s.scanned + n = (s0.rowsBegin f).allRowBytes)) := by
  induction n generalizing s with
  | zero => exact ⟨s, by rw [List.take_zero]; exact .nil s, .inl ⟨h, rfl⟩⟩
  | succ n ih =>
    obtain ⟨u, hu, hnext⟩ := h.next
    rw [drop_eq_byteAt_cons (by omega), List.take_succ_cons]
    rcases hnext with ⟨hread, hpos⟩ | ⟨hshow, hpos⟩
    · obtain ⟨t, ht, hend⟩ := ih hread (by omega) (by omega)
      rw [hpos] at ht hend
      rw [show s.scanned + (n + 1) = s.scanned + 1 + n by omega]
      exact ⟨t, .cons h.rows.busy hu ht, hend⟩
    · obtain rfl : n = 0 := by omega
      exact ⟨u, .cons h.rows.busy hu (by rw [List.take_zero]; exact .nil u), .inr ⟨hshow, hpos⟩⟩

/-- A stream with a legal header is taken up to any position in its rows. -/
theorem HeaderLegal.takes {s : State} {f : List Byte} (h : HeaderLegal s.cfg f) (hp : s.cfg.wf = true) {n : Nat}
    (hn : n ≤ (s.rowsBegin f).allRowBytes) (hlen : 54 + n ≤ f.length) :
    ∃ t, Takes s.beginLoad (f.take (54 + n)) t ∧
      ((s.Reads f t ∧ t.scanned = n) ∨ (s.Shows f t ∧ n = (s.rowsBegin f).allRowBytes)) := by
  have hzero := s.rowsBegin_scanned f
  obtain ⟨t, ht, hend⟩ := (h.reads hp).takes n (by omega) (by omega)
  rw [hzero, Nat.zero_add] at hend
  rw [hzero, Nat.add_zero] at ht
  rw [List.take_add]
  exact ⟨t, (takes_legalHeader h hp).append ht, hend⟩

/-! ### A whole stream -/

/-- What the host reads of a committed picture (R176, R177). -/
theorem State.Shows.picture {s0 t : State} {f : List Byte} (h : s0.Shows f t) (hinv : t.Inv) :
    t.phase = .done ∧ t.imgValid = true ∧ t.imgW.toNat = fileW f ∧ t.imgH.toNat = fileH f ∧ t.imgLen = fileW f * fileH f ∧
      ∀ x y, x < fileW f → y < fileH f → t.pixel x y = some (filePixel s0.cfg f x y) := by
  obtain ⟨hw, hh⟩ := h.loaded.dimensions
  have hw : t.imgW.toNat = fileW f := (congrArg BitVec.toNat hw).trans h.size.w_eq_fileW
  have hh : t.imgH.toNat = fileH f := (congrArg BitVec.toNat hh).trans h.size.h_eq_fileH
  refine ⟨h.loaded.phase, h.loaded.valid, hw, hh, h.loaded.length.trans h.size.npix, fun x y hx hy => ?_⟩
  rw [← hw] at hx
  rw [← hh] at hy
  obtain ⟨-, -, hview⟩ := pixelReadIsBoundsChecked t 0 hinv.imgLen_le_cap
  obtain ⟨p, hfind, hpic⟩ := h.loaded.filled _ (hinv.pixelIndex_lt h.loaded.valid hx hy)
  have hcol : (y * t.imgW.toNat + x) % fileW f = x := by
    rw [← hw, Nat.mul_comm, Nat.mul_add_mod, Nat.mod_eq_of_lt hx]
  have hrow : (y * t.imgW.toNat + x) / fileW f = y := by
    rw [← hw, Nat.mul_comm, Nat.mul_add_div (Nat.zero_lt_of_lt hx), Nat.div_eq_of_lt hx, Nat.add_zero]
  have hword : (t.bank t.active).read (y * t.imgW.toNat + x) = p := Bank.read_of_find hfind
  rw [hview x y hinv h.loaded.valid hx hy, hword, hpic, hcol, hrow]

/-- A load's end meets the invariant. -/
theorem State.Inv.of_load {s t : State} {f : List Byte} (h : s.Inv) (hidle : s.busy = false) (hload : load f s = .next t) :
    t.Inv := by
  obtain ⟨u, hu, -, hinv⟩ := everyLoadEnds s f h hidle
  exact Host.Outcome.next.inj (hu.symm.trans hload) ▸ hinv

/-- Settles O51: the rows are taken to their last byte, which commits the picture. -/
theorem goodLoadLeavesThePicture : Obligations.GoodLoadLeavesThePicture := by
  intro s f hinv hidle hlegal hlen
  rw [need_eq_allRowBytes] at hlen
  obtain ⟨t, ht, ⟨hread, hpos⟩ | ⟨hshow, -⟩⟩ := hlegal.takes hinv.parameters (Nat.le_refl _) hlen
  · have hlt := hread.rows.scanned_lt
    rw [hread.size.allRowBytes, hpos] at hlt
    exact absurd hlt (Nat.lt_irrefl _)
  · have hnotBusy : t.busy = false := by rw [State.busy, hshow.loaded.phase]; rfl
    obtain ⟨-, hload⟩ := ht.ends_load hnotBusy hlen hidle
    exact ⟨t, hload, hshow.picture (hinv.of_load hidle hload)⟩

/-! ### A stream that ends in its rows -/

/-- A stream that is too short meets its end somewhere in the rows. -/
theorem HeaderLegal.load_short {s : State} {f : List Byte} (h : HeaderLegal s.cfg f) (hp : s.cfg.wf = true)
    (hidle : s.busy = false) (hlen : f.length < need s.cfg f) :
    ∃ t, s.Reads f t ∧ f.length = 54 + t.scanned ∧ load f s = exec .eos t := by
  have hwhole := h.whole
  rw [need_eq_allRowBytes] at hlen
  obtain ⟨t, ht, ⟨hread, hpos⟩ | ⟨-, hpos⟩⟩ := h.takes hp (n := f.length - 54) (by omega) (by omega)
  · rw [Nat.add_sub_cancel' hwhole, List.take_length] at ht
    have hdeliver := ht.deliver_append []
    rw [List.append_nil, deliver, if_pos hread.rows.busy] at hdeliver
    exact ⟨t, hread, by omega, (load_notBusy hidle f).trans hdeliver⟩
  · omega

/-- Where the end of the stream is not in the last row's padding, or the parameter does not allow it, it is a failed
read (R94). -/
theorem State.Reads.eos_io {s0 s : State} {f : List Byte} (h : s0.Reads f s)
    (hpad : ¬(s.cfg.finalPadOptional = true ∧ s.phase = .pad ∧ s.line.toNat + 1 = s.h)) :
    ∃ t, exec .eos s = .next t ∧ t.phase = .failed ∧ t.err = .io ∧ t.npix = fileW f * fileH f := by
  have hopen : ¬(s.phase = .fhdr ∧ s.hoff = 0) := fun hp => by
    rcases h.rows.place with ⟨hp', -⟩ | ⟨hp', -⟩ <;> cases hp.1.symm.trans hp'
  exact ⟨_, (exec_eos_io h.rows.busy hopen hpad).trans (exec_fail .io s), rfl, rfl,
    (s.raiseFail_npix .io).trans h.size.npix⟩

/-- Settles O53: the parameter is false. -/
theorem shortStreamFailsWithIo : Obligations.ShortStreamFailsWithIo := by
  intro s f hinv hidle hopt hlegal hlen
  obtain ⟨t, hread, -, hload⟩ := hlegal.load_short hinv.parameters hidle hlen
  rw [hload]
  refine hread.eos_io fun hpad => ?_
  have hcfg : t.cfg = s.cfg := hread.size.cfg
  rw [hcfg, hopt] at hpad
  exact absurd hpad.1 (by decide)

/-- A position is in the last row's padding when no more than that padding is still to come (R48, R170). -/
theorem State.Scanning.last_padding_iff {s : State} (h : s.Scanning) :
    s.phase = .pad ∧ s.line.toNat + 1 = s.h ↔ s.allRowBytes ≤ s.scanned + s.padlen := by
  have hlt := h.rowPos_lt
  have hrow : s.rowBytes = s.w * s.bytesPerPixel + s.padlen := rfl
  have hscanned : s.scanned = s.line.toNat * s.rowBytes + s.rowPos := rfl
  rcases Nat.lt_or_ge (s.line.toNat + 1) s.h with hmore | hlast
  · have hrows := mul_add_le_mul_of_lt hmore s.rowBytes
    rw [Nat.succ_mul] at hrows
    have hall : s.allRowBytes = s.h * s.rowBytes := rfl
    exact iff_of_false (fun hp => absurd hp.2 (Nat.ne_of_lt hmore)) (by omega)
  · have hline : s.line.toNat + 1 = s.h := Nat.le_antisymm h.line hlast
    have hall : s.allRowBytes = s.line.toNat * s.rowBytes + s.rowBytes := by
      rw [State.allRowBytes, ← hline, Nat.succ_mul]
    rcases h.place with ⟨hp, hcol, hkb⟩ | ⟨hp, -⟩
    · have hpixels := mul_add_le_mul_of_lt hcol s.bytesPerPixel
      have hpos := State.rowPos_pix hp
      exact iff_of_false (fun hpad => by cases hp.symm.trans hpad.1) (by omega)
    · have hpos := State.rowPos_pad hp
      exact iff_of_true ⟨hp, hline⟩ (by omega)

/-- The end of the stream in the last row's padding commits the picture where the parameter allows it (R94). -/
theorem State.Reads.eos_commits {s0 s : State} {f : List Byte} (h : s0.Reads f s) (hopt : s.cfg.finalPadOptional = true)
    (hp : s.phase = .pad) (hline : s.line.toNat + 1 = s.h) : ∃ t, exec .eos s = .next t ∧ s0.Shows f t :=
  ⟨_, exec_eos_commits h.rows.toSized hopt hp hline, h.size.trans ⟨rfl, rfl, rfl⟩, h.rows.eos_loaded hp hline⟩

/-- Settles O58: the end of the stream meets the last row's padding, or not. -/
theorem shortStreamWithOptionalFinalPadding : Obligations.ShortStreamWithOptionalFinalPadding := by
  intro s f hinv hidle hopt hlegal hlen
  obtain ⟨t, hread, hpos, hload⟩ := hlegal.load_short hinv.parameters hidle hlen
  have hcfg : t.cfg = s.cfg := hread.size.cfg
  have hiff := hread.rows.last_padding_iff
  rw [hread.size.allRowBytes, hread.size.padlen_eq_file] at hiff
  rw [need_eq_allRowBytes, hload]
  refine ⟨fun hpad => ?inPadding, fun hpad => ?before⟩
  case inPadding =>
    obtain ⟨hp, hline⟩ := hiff.mpr (by omega)
    obtain ⟨u, hu, hshow⟩ := hread.eos_commits (by rw [hcfg, hopt]) hp hline
    exact ⟨u, hu, hshow.picture (hinv.of_load hidle (hload.trans hu))⟩
  case before =>
    exact hread.eos_io fun ⟨_, hlast⟩ => absurd (hiff.mp hlast) (by omega)

end Sys2Proof.Machine
end

section
/-! SUPPORT. The transition table of R97 in both directions: what a byte or the end of the stream does to PHASE in
each of the BUSY phases; and the statements O42 and O57. -/

namespace Sys2Proof.Machine

/-! ### The header phases -/

/-- A byte of the file header moves PHASE at offsets 1 and 13 only (R97, R114, R116). -/
theorem State.Inv.byte_fhdr {s t : State} {b : Byte} (h : s.Inv) (hp : s.phase = .fhdr) (ht : exec (.byte b) s = .next t)
    (hmove : t.phase ≠ s.phase) :
    (s.hoff = 1 ∧ ¬(s.hdrAt 0 = 0x42 ∧ b = 0x4D) ∧ t.phase = .failed ∧ t.err = .signature) ∨
      (s.hoff = 13 ∧ t.phase = .ihdr) := by
  have hle := h.fileHeader hp
  rw [exec_byte_eq_hcap (.inl hp)] at ht
  by_cases h1 : s.hoff = 1
  · by_cases hsig : s.hdrAt 0 = 0x42 ∧ b = 0x4D
    · obtain ⟨h0, rfl⟩ := hsig
      cases (exec_hcap_goodSignature (.inl hp) h1 h0).symm.trans ht
      exact absurd rfl hmove
    · cases (exec_hcap_badSignature (.inl hp) b h1 hsig).symm.trans ht
      exact .inl ⟨h1, hsig, rfl, rfl⟩
  by_cases h13 : s.hoff = 13
  · cases (exec_hcap_infoHeader (.inl hp) b h13).symm.trans ht
    exact .inr ⟨h13, rfl⟩
  cases (exec_hcap_plain (.inl hp) b (State.hoff_toNat_ne h1) (State.hoff_toNat_ne h13) (by omega)).symm.trans ht
  exact absurd rfl hmove

/-- The judgement of a header by what VALIDATE and ALLOC ask (R141, R144). -/
theorem judgement_cases (c : State) :
    (¬c.headerValid ∧ ∃ e, (e = .zeroDim ∨ e = .bpp ∨ e = .compression) ∧
      settle c ((validate c).bind alloc) = .next (c.raiseFail e)) ∨
    (c.headerValid ∧ ¬c.sizeFits ∧ ∃ e, (e = .overflow ∨ e = .capacity) ∧
      settle c ((validate c).bind alloc) = .next (c.raiseFail e)) ∨
    (c.headerValid ∧ c.sizeFits ∧ settle c ((validate c).bind alloc) =
      .next { c with npix := c.w * c.h, line := 0, col := 0, kb := 0, padcnt := 0, phase := .pix }) := by
  by_cases hvalid : c.headerValid
  · rw [validate_valid hvalid, Effect.bind_ok]
    by_cases hfits : c.sizeFits
    · exact .inr (.inr ⟨hvalid, hfits, by rw [alloc_fits hfits, settle_ok]⟩)
    · rcases alloc_cases c with ⟨n, hn, hcap, -⟩ | ⟨e, he, ha⟩
      · obtain ⟨rfl, hsz⟩ := (mulSize_eq_some_iff c.cfg c.w c.h n).mp hn
        exact absurd ⟨hsz, hcap⟩ hfits
      · exact .inr (.inl ⟨hvalid, hfits, e, he, by rw [ha, settle_fail]⟩)
  · rcases validate_cases c with ⟨hw, hh, hbpp, hcompr, -⟩ | ⟨e, he, hv⟩
    · exact absurd ⟨hw, hh, hbpp, hcompr⟩ hvalid
    · exact .inl ⟨hvalid, e, he, by rw [hv, Effect.bind_fail, settle_fail]⟩

/-- The last byte of the info header is the judgement of the header with it captured (R96, R142). -/
theorem exec_byte_judgement {s : State} (hp : s.phase = .ihdr) (h53 : s.hoff = 53) (b : Byte) :
    exec (.byte b) s = settle (s.setHdr 53 b) ((validate (s.setHdr 53 b)).bind alloc) := by
  rw [exec_byte_eq_hcap (.inr hp), exec_hcap_last (.inr hp) b h53, State.capture_eq h53]
  rfl

/-- A byte of the info header before the last leaves PHASE (R97). -/
theorem State.Inv.byte_ihdr {s t : State} {b : Byte} (h : s.Inv) (hp : s.phase = .ihdr) (ht : exec (.byte b) s = .next t)
    (hmove : t.phase ≠ s.phase) : s.hoff = 53 := by
  obtain ⟨hge, hle⟩ := h.infoHeader hp
  refine Classical.not_not.mp fun h53 => hmove ?_
  have hne : s.hoff.toNat ≠ 53 := State.hoff_toNat_ne h53
  rw [exec_byte_eq_hcap (.inr hp)] at ht
  cases (exec_hcap_plain (.inr hp) b (by omega) (by omega) (by omega)).symm.trans ht
  rfl

/-! ### The rows -/

/-- The last byte of a row's pixels ends the row or begins its padding (R97, R165). -/
theorem State.RowByte.of_last_pixel {s t : State} {b : Byte} (h : s.RowByte b t) (hp : s.phase = .pix)
    (hcol : s.col.toNat + 1 = s.w) (hkb : s.kb.toNat + 1 = s.bytesPerPixel) :
    (0 < s.padlen ∧ t.phase = .pad) ∨
      (s.padlen = 0 ∧ s.line.toNat + 1 < s.h ∧ t.phase = .pix ∧ t.line = s.line + 1) ∨
      (s.padlen = 0 ∧ s.line.toNat + 1 = s.h ∧ t.phase = .done) := by
  cases h with
  | hold _ hmore => omega
  | pixel _ _ hmore => omega
  | toPadding _ _ _ hpad => exact .inl ⟨hpad, rfl⟩
  | padding hp' => cases hp.symm.trans hp'
  | nextRow u hu hline =>
    have hstep : u.line + 1 = s.line + 1 := by rw [hu.frame.2.1]
    cases hu with
    | pixel _ _ _ hpad => exact .inr (.inl ⟨hpad, hline, rfl, hstep⟩)
    | padding hp' => cases hp.symm.trans hp'
  | commit u hu hline =>
    cases hu with
    | pixel _ _ _ hpad => exact .inr (.inr ⟨hpad, hline, rfl⟩)
    | padding hp' => cases hp.symm.trans hp'

/-- The last padding byte of a row ends it (R97, R171). -/
theorem State.RowByte.of_last_padding {s t : State} {b : Byte} (h : s.RowByte b t) (hp : s.phase = .pad)
    (hcnt : s.padcnt.toNat + 1 = s.padlen) :
    (s.line.toNat + 1 < s.h ∧ t.phase = .pix ∧ t.line = s.line + 1) ∨ (s.line.toNat + 1 = s.h ∧ t.phase = .done) := by
  cases h with
  | hold hp' | pixel hp' | toPadding hp' => cases hp.symm.trans hp'
  | padding _ hmore => omega
  | nextRow u hu hline =>
    have hstep : u.line + 1 = s.line + 1 := by rw [hu.frame.2.1]
    exact .inl ⟨hline, rfl, hstep⟩
  | commit u hu hline => exact .inr ⟨hline, rfl⟩

/-- In PIX only the last byte of a row's pixels moves PHASE (R97). -/
theorem State.RowByte.moves_pix {s t : State} {b : Byte} (h : s.RowByte b t) (hp : s.phase = .pix)
    (hmove : t.phase ≠ s.phase) :
    s.col.toNat + 1 = s.w ∧ s.kb.toNat + 1 = s.bytesPerPixel := by
  cases h with
  | hold => exact absurd rfl hmove
  | pixel => exact absurd (s.setBank_phase _ _) hmove
  | toPadding _ hkb hcol => exact ⟨hcol, hkb⟩
  | padding hp' => cases hp.symm.trans hp'
  | nextRow u hu => exact absurd hp.symm hmove
  | commit u hu =>
    cases hu with
    | pixel _ hkb hcol => exact ⟨hcol, hkb⟩
    | padding hp' => cases hp.symm.trans hp'

/-- In PAD only the last byte of a row's padding moves PHASE (R97). -/
theorem State.RowByte.moves_pad {s t : State} {b : Byte} (h : s.RowByte b t) (hp : s.phase = .pad)
    (hmove : t.phase ≠ s.phase) :
    s.padcnt.toNat + 1 = s.padlen := by
  cases h with
  | hold hp' | pixel hp' | toPadding hp' => cases hp.symm.trans hp'
  | padding => exact absurd rfl hmove
  | nextRow u hu | commit u hu =>
    cases hu with
    | pixel hp' => cases hp.symm.trans hp'
    | padding _ hcnt => exact hcnt

/-! ### The end of the stream -/

/-- The three outcomes of EOS in BUSY (R93, R94). -/
theorem State.Inv.eos_cases {s : State} (h : s.Inv) (hb : s.busy = true) :
    (s.phase = .fhdr ∧ s.hoff = 0 ∧ exec .eos s = .next (s.raiseFail .openFailed)) ∨
    (s.phase = .pad ∧ s.cfg.finalPadOptional = true ∧ s.line.toNat + 1 = s.h ∧
      exec .eos s = .next (State.commit { s with padcnt := 0 })) ∨
    (¬(s.phase = .fhdr ∧ s.hoff = 0) ∧ ¬(s.cfg.finalPadOptional = true ∧ s.phase = .pad ∧ s.line.toNat + 1 = s.h) ∧
      exec .eos s = .next (s.raiseFail .io)) := by
  by_cases hopen : s.phase = .fhdr ∧ s.hoff = 0
  · exact .inl ⟨hopen.1, hopen.2, exec_eos_open hopen.1 hopen.2⟩
  by_cases hpad : s.cfg.finalPadOptional = true ∧ s.phase = .pad ∧ s.line.toNat + 1 = s.h
  · obtain ⟨hopt, hp, hline⟩ := hpad
    exact .inr (.inl ⟨hp, hopt, hline, exec_eos_commits (h.scanning (.inr hp)).toSized hopt hp hline⟩)
  · exact .inr (.inr ⟨hopen, hpad, exec_eos_io hb hopen hpad⟩)

/-! ### Each listed pair moves PHASE -/

/-- Settles O57: the event of each pair's input, and its equation in the pair's state. -/
theorem everyListedPairMovesPhase : Obligations.EveryListedPairMovesPhase := by
  intro s rest h moves nextRow byte eos
  have hevent {x : Input} {e : Instr} {u : State} (he : decodeEvent s.busy s.cfg.sz x = .ok e) (hu : exec e s = .next u) :
      step { s with inbox := x :: rest } = .next { u with inbox := rest } := by
    rw [step_event_withInbox h.parameters he, hu]
    rfl
  have hbyte {b : Byte} {u : State} (hb : s.busy = true) (hu : exec (.byte b) s = .next u) :
      step { s with inbox := byte b :: rest } = .next { u with inbox := rest } :=
    hevent (by rw [hb]; rfl) hu
  have heos {u : State} (hb : s.busy = true) (hu : exec .eos s = .next u) :
      step { s with inbox := eos :: rest } = .next { u with inbox := rest } :=
    hevent (by rw [hb]; rfl) hu
  have hbusy {p : Phase} (hp : s.phase = p) (hb : p.busy = true) : s.busy = true := by rw [State.busy, hp, hb]
  have herr {p : Phase} (hp : s.phase = p) (hne : p ≠ .failed) : s.err = .none := h.err_none (hp ▸ hne)
  have hio (hb : s.busy = true) (hopen : ¬(s.phase = .fhdr ∧ s.hoff = 0))
      (hpad : ¬(s.cfg.finalPadOptional = true ∧ s.phase = .pad ∧ s.line.toNat + 1 = s.h)) : moves eos .failed .io :=
    ⟨_, heos hb (exec_eos_io hb hopen hpad), rfl, rfl⟩
  have hrow (hr : s.inRows) (b : Byte) :
      ∃ t, step { s with inbox := byte b :: rest } = .next { t with inbox := rest } ∧ s.RowByte b t ∧ t.err = .none := by
    have hscan := h.scanning hr
    obtain ⟨t, ht, hrow⟩ := exec_byte_rowByte hscan b
    exact ⟨t, hbyte hscan.busy ht, hrow, hrow.hoff_err.2.trans (h.rowsInv hr).err⟩
  refine ⟨?reset, fun hp => ?start, fun hp h1 b hbad => ?signature, fun hp h13 b => ?infoHeader, fun hp h0 => ?openFailed,
    fun hp h0 => ?readFhdr, fun hp h53 b => ?judged, fun hp => ?readIhdr, fun hp hcol hkb b => ?lastPixel,
    fun hp => ?readPix, fun hp hcnt b => ?lastPadding, fun hp hopt hline => ?finalPad, fun hp hno => ?readPad⟩
  case reset => exact ⟨_, hevent rfl rfl, rfl, rfl⟩
  case start =>
    have hb : s.busy = false := State.busy_eq_false_of_phase
      (hp.elim (fun hidle => .inr (.inr hidle)) fun hend => hend.elim (fun hdone => .inr (.inl hdone)) .inl)
    exact ⟨_, hevent (by rw [hb]; rfl) (exec_start_notBusy hb), rfl, rfl⟩
  case signature =>
    have hu := (exec_byte_eq_hcap (.inl hp) b).trans (exec_hcap_badSignature (.inl hp) b h1 hbad)
    exact ⟨_, hbyte (hbusy hp rfl) hu, rfl, rfl⟩
  case infoHeader =>
    have hu := (exec_byte_eq_hcap (.inl hp) b).trans (exec_hcap_infoHeader (.inl hp) b h13)
    exact ⟨_, hbyte (hbusy hp rfl) hu, rfl, herr hp nofun⟩
  case openFailed => exact ⟨_, heos (hbusy hp rfl) (exec_eos_open hp h0), rfl, rfl⟩
  case readFhdr => exact hio (hbusy hp rfl) (fun hopen => h0 hopen.2) fun hpad => by cases hp.symm.trans hpad.2.1
  case readIhdr =>
    exact hio (hbusy hp rfl) (fun hopen => by cases hp.symm.trans hopen.1) fun hpad => by cases hp.symm.trans hpad.2.1
  case readPix =>
    exact hio (hbusy hp rfl) (fun hopen => by cases hp.symm.trans hopen.1) fun hpad => by cases hp.symm.trans hpad.2.1
  case readPad =>
    exact hio (hbusy hp rfl) (fun hopen => by cases hp.symm.trans hopen.1) fun hpad => hno ⟨hpad.1, hpad.2.2⟩
  case finalPad =>
    have hu := exec_eos_commits (h.scanning (.inr hp)).toSized hopt hp hline
    exact ⟨_, heos (hbusy hp rfl) hu, rfl, herr hp nofun⟩
  case judged =>
    have hb := hbusy hp rfl
    have hu := exec_byte_judgement hp h53 b
    rcases judgement_cases (s.setHdr 53 b) with ⟨hbad, e, he, hj⟩ | ⟨hvalid, hbad, e, he, hj⟩ | ⟨hvalid, hfits, hj⟩
    · refine ⟨fun _ => ⟨e, ?_, _, hbyte hb (hu.trans hj), rfl, rfl⟩, fun hv => absurd hv hbad, fun hv => absurd hv hbad⟩
      simpa using he
    · refine ⟨fun hv => absurd hvalid hv, fun _ _ => ⟨e, ?_, _, hbyte hb (hu.trans hj), rfl, rfl⟩,
        fun _ hf => absurd hf hbad⟩
      simpa using he
    · exact ⟨fun hv => absurd hvalid hv, fun _ hf => absurd hfits hf,
        fun _ _ => ⟨_, hbyte hb (hu.trans hj), rfl, herr hp nofun⟩⟩
  case lastPixel =>
    obtain ⟨t, ht, hrow, he⟩ := hrow (.inl hp) b
    rcases hrow.of_last_pixel hp hcol hkb with ⟨hpad, hpt⟩ | ⟨hpad, hline, hpt, hlt⟩ | ⟨hpad, hline, hpt⟩
    · exact ⟨fun _ => ⟨_, ht, hpt, he⟩, fun h0 => by omega, fun h0 => by omega⟩
    · exact ⟨fun h0 => by omega, fun _ _ => ⟨_, ht, hpt, he, hlt⟩, fun _ h0 => by omega⟩
    · exact ⟨fun h0 => by omega, fun _ h0 => by omega, fun _ _ => ⟨_, ht, hpt, he⟩⟩
  case lastPadding =>
    obtain ⟨t, ht, hrow, he⟩ := hrow (.inr hp) b
    rcases hrow.of_last_padding hp hcnt with ⟨hline, hpt, hlt⟩ | ⟨hline, hpt⟩
    · exact ⟨fun _ => ⟨_, ht, hpt, he, hlt⟩, fun h0 => by omega⟩
    · exact ⟨fun h0 => by omega, fun _ => ⟨_, ht, hpt, he⟩⟩

/-! ### PHASE moves by a listed pair only -/

/-- In PIX a byte is the operation of the depth (R74). -/
theorem streamOp_pix_eq {sel : Selector} (hp : sel.phase = .pix) (b : Byte) :
    streamOp sel b = .pix24 b ∨ streamOp sel b = .pix32 b := by
  rw [streamOp_pix b hp]
  by_cases h24 : sel.bpp = 24
  · exact .inl (if_pos h24)
  · exact .inr (if_neg h24)

/-- A host read leaves PHASE (R99, R176). -/
theorem State.sameBlock_phase {s t : State} (h : s.sameBlock t) : t.phase = s.phase := by
  rw [← h]

/-- Settles O42: the event of the input, and what it does in the phase. -/
theorem phaseChangesOnlyAsListed : Obligations.PhaseChangesOnlyAsListed := by
  intro s t x rest hinv hin hstep hmove
  rcases step_cons hin hstep with rfl | ⟨i, hi, hexec⟩
  · exact absurd rfl hmove
  have h : State.Inv { s with inbox := rest } := hinv.of_sameBlock rfl
  obtain ⟨e, he, rfl⟩ := decode_eq_ok hi
  refine ⟨_, hi, ?_⟩
  have hexec : exec e { s with inbox := rest } = .next t := (exec_refine { s with inbox := rest } e).symm.trans hexec
  rcases decodeEvent_cases he with (rfl | ⟨rfl, hb⟩ | ⟨rfl, hb⟩ | ⟨b, rfl, hb⟩) | ⟨n, rfl⟩ | ⟨a, rfl, -⟩
  case inl.inl =>
    cases hexec
    exact .inl ⟨rfl, rfl⟩
  case inl.inr.inl =>
    cases (exec_start_notBusy (by exact hb)).symm.trans hexec
    refine .inr (.inl ⟨rfl, ?_, rfl⟩)
    cases hp : s.phase with
    | idle | done | failed => simp
    | fhdr | ihdr | pix | pad => rw [State.selector_phase, hp] at hb; cases hb
  case inl.inr.inr.inl =>
    rcases h.eos_cases hb with ⟨hp, h0, heos⟩ | ⟨hp, hopt, hline, heos⟩ | ⟨hopen, hpad, heos⟩ <;>
      cases heos.symm.trans hexec
    · iterate 4 right
      exact .inl ⟨hp, rfl, h0, rfl, rfl⟩
    · iterate 15 right
      exact .inl ⟨hp, rfl, hopt, hline, rfl⟩
    · cases hp : s.phase with
      | idle | done | failed => rw [State.selector_phase, hp] at hb; cases hb
      | fhdr =>
        iterate 5 right
        exact .inl ⟨rfl, rfl, fun h0 => hopen ⟨hp, h0⟩, rfl, rfl⟩
      | ihdr =>
        iterate 9 right
        exact .inl ⟨rfl, rfl, rfl, rfl⟩
      | pix =>
        iterate 12 right
        exact .inl ⟨rfl, rfl, rfl, rfl⟩
      | pad =>
        iterate 16 right
        exact ⟨rfl, rfl, fun hlast => hpad ⟨hlast.1, hp, hlast.2⟩, rfl, rfl⟩
  case inl.inr.inr.inr =>
    have hop : refine s.selector (.byte b) = streamOp s.selector b := rfl
    rw [hop]
    cases hp : s.phase with
    | idle | done | failed => rw [State.selector_phase, hp] at hb; cases hb
    | fhdr =>
      rcases h.byte_fhdr hp hexec hmove with ⟨h1, hbad, hpt, het⟩ | ⟨h13, hpt⟩
      · have h1 : s.hoff = 1 := h1
        iterate 2 right
        exact .inl ⟨rfl, ⟨b, by simp [streamOp, hp, h1, fileHeaderOp], hbad⟩, h1, hpt, het⟩
      · have h13 : s.hoff = 13 := h13
        iterate 3 right
        exact .inl ⟨rfl, ⟨b, by simp [streamOp, hp, h13, fileHeaderOp]⟩, h13, hpt⟩
    | ihdr =>
      have h53 : s.hoff = 53 := h.byte_ihdr hp hexec hmove
      have hop : streamOp s.selector b = .ihClrimp b := by simp [streamOp, hp, h53, infoHeaderOp]
      have hjudge := (exec_byte_judgement (s := { s with inbox := rest }) hp h53 b).symm.trans hexec
      rcases judgement_cases (State.setHdr { s with inbox := rest } 53 b) with
        ⟨hbad, e, hcode, hj⟩ | ⟨hvalid, hbad, e, hcode, hj⟩ | ⟨hvalid, hfits, hj⟩ <;> cases hj.symm.trans hjudge
      · iterate 6 right
        exact .inl ⟨rfl, ⟨b, hop, hbad⟩, h53, rfl, hcode⟩
      · iterate 7 right
        exact .inl ⟨rfl, ⟨b, hop, hvalid, hbad⟩, h53, rfl, hcode⟩
      · iterate 8 right
        exact .inl ⟨rfl, ⟨b, hop, hvalid, hfits⟩, h53, rfl⟩
    | pix =>
      obtain ⟨u, hu, hrow⟩ := exec_byte_rowByte (h.scanning (.inl hp)) b
      obtain rfl : u = t := Host.Outcome.next.inj (hu.symm.trans hexec)
      obtain ⟨hcol, hkb⟩ := hrow.moves_pix hp hmove
      have hop := streamOp_pix_eq (sel := s.selector) hp b
      rcases hrow.of_last_pixel hp hcol hkb with ⟨hpad, hpt⟩ | ⟨-, -, hpt, -⟩ | ⟨hpad, hline, hpt⟩
      · iterate 10 right
        exact .inl ⟨rfl, ⟨b, hop⟩, hcol, hkb, hpad, hpt⟩
      · exact absurd (hpt.trans hp.symm) hmove
      · iterate 11 right
        exact .inl ⟨rfl, ⟨b, hop⟩, hcol, hkb, hpad, hline, hpt⟩
    | pad =>
      obtain ⟨u, hu, hrow⟩ := exec_byte_rowByte (h.scanning (.inr hp)) b
      obtain rfl : u = t := Host.Outcome.next.inj (hu.symm.trans hexec)
      have hcnt := hrow.moves_pad hp hmove
      have hop := streamOp_pad (sel := s.selector) b hp
      rcases hrow.of_last_padding hp hcnt with ⟨hline, hpt, -⟩ | ⟨hline, hpt⟩
      · iterate 13 right
        exact .inl ⟨rfl, ⟨b, hop⟩, hcnt, hline, hpt⟩
      · iterate 14 right
        exact .inl ⟨rfl, ⟨b, hop⟩, hcnt, hline, hpt⟩
  case inr.inl => exact absurd (State.sameBlock_phase (State.sameBlock_of_inbox (exec_rdreg_sameBlock hexec))) hmove
  case inr.inr => exact absurd (State.sameBlock_phase (State.sameBlock_of_inbox (exec_rdpix_sameBlock hexec))) hmove

end Sys2Proof.Machine
end
